-- ==== Sys2Proof/Word.lean ====
section
/-!
DEFINITION. The word types of the block (spec/00_scope.md R5, R6): a command word of 32 bits, an intensity byte, and a
256-bit vector indexed by physical position or by chain stage.
-/

namespace Sys2Proof

/-- A command word, 32 bits, bit 31 the most significant (spec/30_encoding.md R71). -/
abbrev Word := BitVec 32

/-- An intensity byte, a brightness level or a PWM compare value (spec/10_state.md R20, R23, R24). -/
abbrev Byte := BitVec 8

/-- A vector of 256 single bits: `PV`, `SR` or `OUT`; the bit numbered k in the spec is the bit k of the vector
(spec/00_scope.md R7, spec/20_memory.md R53 (b)). -/
abbrev Row := BitVec 256

/-- A number 0 to 255: a surface cell, a physical position or a chain stage (spec/20_memory.md R50). -/
abbrev Index := Fin 256

end Sys2Proof
end

