-- ==== Sys2Proof/Syntax.lean ====
section
/-!
DEFINITION. The six abstract commands of the block (spec/30_encoding.md R70), one constructor for each row of
spec/opcode_table.json.
-/

namespace Sys2Proof

/-- The abstract commands. Integer operands are mathematical integers, and a flag operand is one bit, 1 = on or rotated
(R70; spec/92_eei_decisions.md D2, D18, D32). -/
inductive Instr where
  /-- `SETPIXEL x, y, on`: write one cell of the surface (spec/40_surface_ops.md R90). -/
  | setpixel (x y : Int) (on : Bool)
  /-- `CLEAR`: zero the whole surface (spec/40_surface_ops.md R91). -/
  | clear
  /-- `RENDER`: build the physical vector, shift it out and latch it (spec/41_render_serializer.md R110). -/
  | render
  /-- `SETBRIGHT level`: set the global brightness (spec/42_brightness_pwm.md R140). -/
  | setbright (level : Int)
  /-- `SETROT r`: select the rotation of later SETPIXELs (spec/40_surface_ops.md R92). -/
  | setrot (r : Bool)
  /-- `DSTEP`: advance the dither phase (spec/42_brightness_pwm.md R146). -/
  | dstep
  deriving DecidableEq, Repr

end Sys2Proof
end

