-- ==== Sys2Proof/WellFormed.lean ====
section
/-!
DEFINITION. Which abstract commands have a command word: those whose operands fit their fields (spec/30_encoding.md R72,
R76; spec/93_implementation_defined.md U11).
-/

namespace Sys2Proof

/-- A coordinate fits its signed 12-bit field (R72). -/
def coordFits (v : Int) : Bool := decide (-2048 ≤ v) && decide (v ≤ 2047)

/-- A level fits its signed 16-bit field (R72). -/
def levelFits (v : Int) : Bool := decide (-32768 ≤ v) && decide (v ≤ 32767)

/-- Every operand fits its field. A command without integer operands always fits. A command that does not fit still has
its meaning at the abstract layer; it has no word (U11). -/
def Instr.wellFormed : Instr → Bool
  | .setpixel x y _ => coordFits x && coordFits y
  | .clear => true
  | .render => true
  | .setbright level => levelFits level
  | .setrot _ => true
  | .dstep => true

end Sys2Proof
end

