-- ==== Sys2Proof/Decode.lean ====
section
/-!
DEFINITION. The command word (spec/30_encoding.md): the opcode map, the decoder, total on all words, and the encoder
written from the same formats.
-/

namespace Sys2Proof

/-- One row of the opcode map: the command's name, its mask and its match (R73). -/
structure OpcodeRow where
  mnemonic : String
  mask : Word
  value : Word
  deriving DecidableEq, Repr

/-- The row of SETPIXEL, format P (R73). -/
def rowSetpixel : OpcodeRow := ⟨"SETPIXEL", 0xFE000000#32, 0x10000000#32⟩
/-- The row of CLEAR, format Z (R73). -/
def rowClear : OpcodeRow := ⟨"CLEAR", 0xFFFFFFFF#32, 0x20000000#32⟩
/-- The row of RENDER, format Z (R73). -/
def rowRender : OpcodeRow := ⟨"RENDER", 0xFFFFFFFF#32, 0x30000000#32⟩
/-- The row of SETBRIGHT, format L (R73). -/
def rowSetbright : OpcodeRow := ⟨"SETBRIGHT", 0xFFFF0000#32, 0x40000000#32⟩
/-- The row of SETROT, format F (R73). -/
def rowSetrot : OpcodeRow := ⟨"SETROT", 0xFEFFFFFF#32, 0x50000000#32⟩
/-- The row of DSTEP, format Z (R73). -/
def rowDstep : OpcodeRow := ⟨"DSTEP", 0xFFFFFFFF#32, 0x60000000#32⟩

/-- The opcode map, in the order of R73. -/
def opcodeRows : List OpcodeRow :=
  [rowSetpixel, rowClear, rowRender, rowSetbright, rowSetrot, rowDstep]

/-- A word is of a row when `cw AND mask = match` (R73). -/
def OpcodeRow.matches (r : OpcodeRow) (cw : Word) : Bool := cw &&& r.mask == r.value

/-- The row that a command is encoded by. -/
def Instr.row : Instr → OpcodeRow
  | .setpixel _ _ _ => rowSetpixel
  | .clear => rowClear
  | .render => rowRender
  | .setbright _ => rowSetbright
  | .setrot _ => rowSetrot
  | .dstep => rowDstep

/-- Why a word names no command (R74). -/
inductive Reserved where
  /-- `op` is 0x0 or 0x7 to 0xF: it selects nothing. -/
  | opcode
  /-- `op` selects a command and a must-be-zero field holds a 1. -/
  | mustBeZero
  deriving DecidableEq, Repr

/-- `op`, bits 31:28 (R71). -/
def fieldOp (cw : Word) : BitVec 4 := cw.extractLsb' 28 4
/-- The flag `f`, bit 24 of formats P and F (R71). -/
def fieldF (cw : Word) : Bool := cw.getLsbD 24
/-- `a`, bits 23:12 of format P, read as a signed integer: the operand x (R71, R72). -/
def fieldX (cw : Word) : Int := (cw.extractLsb' 12 12).toInt
/-- `b`, bits 11:0 of format P, read as a signed integer: the operand y (R71, R72). -/
def fieldY (cw : Word) : Int := (cw.extractLsb' 0 12).toInt
/-- `imm16`, bits 15:0 of format L, read as a signed integer: the operand level (R71, R72). -/
def fieldLevel (cw : Word) : Int := (cw.extractLsb' 0 16).toInt

/-- Which kind of reserved word a word that matches no row is (R74). -/
def reservedKind (cw : Word) : Reserved :=
  if 1 ≤ (fieldOp cw).toNat ∧ (fieldOp cw).toNat ≤ 6 then .mustBeZero else .opcode

/-- The decoder: total on words, the six commands or a reserved word, which it rejects by name (R79, R74). -/
def decode (cw : Word) : Except Reserved Instr :=
  if rowSetpixel.matches cw then .ok (.setpixel (fieldX cw) (fieldY cw) (fieldF cw))
  else if rowClear.matches cw then .ok .clear
  else if rowRender.matches cw then .ok .render
  else if rowSetbright.matches cw then .ok (.setbright (fieldLevel cw))
  else if rowSetrot.matches cw then .ok (.setrot (fieldF cw))
  else if rowDstep.matches cw then .ok .dstep
  else .error (reservedKind cw)

/-- The command a word names, if any. -/
def decode? (cw : Word) : Option Instr := (decode cw).toOption

/-- The encoder: the word of a command, field by field from the formats of R71, high bits first. It is meant for
well-formed commands; an operand outside its field has no word (R72). -/
def encode : Instr → Word
  | .setpixel x y on => 0x1#4 ++ 0#3 ++ BitVec.ofBool on ++ BitVec.ofInt 12 x ++ BitVec.ofInt 12 y
  | .clear => 0x2#4 ++ 0#28
  | .render => 0x3#4 ++ 0#28
  | .setbright level => 0x4#4 ++ 0#12 ++ BitVec.ofInt 16 level
  | .setrot r => 0x5#4 ++ 0#3 ++ BitVec.ofBool r ++ 0#24
  | .dstep => 0x6#4 ++ 0#28

/-- The word the host puts on `cmd_word` when the table's bits are w: the word is one parallel value of 32 bits, so it has
no byte order (spec/20_memory.md R53 (d)). -/
def tableWord (nbits w : Nat) : Word := BitVec.ofNat 32 (w % 2 ^ nbits)

/-- The instruction the decoder reads from an instruction whose bits are w. -/
def decodeTableWord (nbits w : Nat) : Option Instr := decode? (tableWord nbits w)

end Sys2Proof
end

