-- ==== Sys2Proof/Config.lean ====
section
/-!
DEFINITION. The open parameters and the free values of the block. Each is an opaque constant without a body: nothing can
be proved of its value, so a statement about the model holds for every choice (spec/00_scope.md R5;
spec/92_eei_decisions.md, the list of open parameters).
-/

namespace Sys2Proof

/-- What the host puts on the port `rst` in one step (spec/10_state.md R38), and, when it resets the block, what it does with
a command word that it is presenting: the host may be restarted with the block (spec/70_reset_and_hazards.md R190), so it
goes on presenting the word or withdraws it. DESIGN CHOICE (log entry 1), safe: both are there. -/
inductive ResetInput where
  /-- `rst = 0`. -/
  | low
  /-- `rst = 1`; a word presented and not accepted is presented again in the next step. -/
  | high
  /-- `rst = 1`; a word presented in this step is withdrawn, and never performed. -/
  | highWithdraw
  deriving DecidableEq, Repr, Inhabited

/-- `HWMAP` on cell indices, a bijection from the 256 logical cells onto the 256 physical positions whose contents the
source does not give (spec/10_state.md R21; D22). A table that is not a bijection cannot be written here (U6). -/
opaque Config.hwmap : Equiv.Perm Index

/-- Which of its two allowed values `PWM_PERIOD` has (spec/42_brightness_pwm.md R142; D15). -/
opaque Config.pwmPeriodIs256 : Bool

/-- `PWM_PERIOD`, 255 or 256 counter ticks for each carrier period (spec/00_scope.md R5; D15, U9). -/
def Config.pwmPeriod : Nat := if Config.pwmPeriodIs256 then 256 else 255

/-- DESIGN CHOICE (log entry 2), safe: the byte that cell c holds after reset number k, until it is written. The spec says
'unspecified', so it is a free value (spec/10_state.md R39; U1). -/
opaque Config.resetSurface : Nat → Nat → Byte

/-- DESIGN CHOICE (log entry 3), safe: `LEVEL` after reset number k, a free value (R39; U2). -/
opaque Config.resetLevel : Nat → Byte

/-- DESIGN CHOICE (log entry 3), safe: `DUTY` after reset number k, a free value, with no relation to `LEVEL` (R39; U2). -/
opaque Config.resetDuty : Nat → Byte

/-- DESIGN CHOICE (log entry 3), safe: `PV` after reset number k, a free value (R39; U3). -/
opaque Config.resetPv : Nat → Row

/-- DESIGN CHOICE (log entry 3), safe: `SR` after reset number k, a free value (R39; U3). -/
opaque Config.resetSr : Nat → Row

/-- DESIGN CHOICE (log entry 3), safe: `OUT` after reset number k, a free value (R39; U3). -/
opaque Config.resetOut : Nat → Row

/-- DESIGN CHOICE (log entry 3), safe: the number that `CNT` after reset number k is drawn from, taken modulo `PWM_PERIOD`
(R39; U4). -/
opaque Config.resetCnt : Nat → Nat

/-- DESIGN CHOICE (log entry 6), safe: how many ticks the PWM generator makes in step number n of the machine. The
generator runs free, so the number is a free value (spec/42_brightness_pwm.md R142; U4). -/
opaque Config.pwmTicks : Nat → Nat

/-- DESIGN CHOICE (log entry 1), safe: an endless host's entries for the command port (spec/60_exceptions.md R178), a free
stream: a word, or none for an idle port. -/
opaque Config.hostCommand : Nat → Option Word

/-- DESIGN CHOICE (log entry 1), safe: an endless host's entries for the port `rst` (R178), a free stream. -/
opaque Config.hostReset : Nat → ResetInput

end Sys2Proof
end

