-- ==== Sys2Proof/Machine/State.lean ====
section
/-!
DEFINITION. The state of the block, all of it (spec/10_state.md), as plain data: the block proper, the chain outside it,
the trace, and the fields the model adds for the host's inputs and for its free values.
-/

namespace Sys2Proof.Machine

/-- The three sub-steps of shifting one bit (spec/10_state.md R26; spec/41_render_serializer.md R112). -/
inductive ShiftStep where
  | dataSet
  | clkHigh
  | clkLow
  deriving DecidableEq, Repr

/-- The two sub-steps of the latch pulse (R26; R113). -/
inductive LatchStep where
  | latHigh
  | latLow
  deriving DecidableEq, Repr

/-- The values of the sequencer position `SEQ` (R26). -/
inductive Seq where
  | idle
  | build
  | shift (i : Index) (sub : ShiftStep)
  | latch (sub : LatchStep)
  deriving DecidableEq, Repr

/-- The three serializer pins (R27). -/
inductive Pin where
  | data
  | clk
  | lat
  deriving DecidableEq, Repr

/-- A pin event: a pin and the level it was driven to, 1 = high (spec/10_state.md R32; spec/00_scope.md R10). -/
abbrev Event := Pin × Bool

/-- The surface `S` as a memory: the cells that hold a known byte, each with it, cell numbers rising (R20, R50). A cell
that is not listed has not been written since reset and has no known byte (log entry 2). -/
abbrev Memory := List Host.Cell

/-- A finite or infinite list of what the host does (spec/60_exceptions.md R178), as plain data: first the entries listed,
then nothing more, or for ever the entries of an opaque stream of Config from a place of it on.
DESIGN CHOICE (log entry 1), safe. -/
structure HostList (α : Type) where
  /-- The next entries, the present one first. -/
  listed : List α
  /-- The place in the stream that follows the listed entries; none when the list ends with them. -/
  later : Option Nat
  deriving DecidableEq, Repr

/-- Why the machine stops with a fault: never. The type has no constructor, because nothing in the block faults
(spec/60_exceptions.md R170), so there is nothing that could be raised, safe or unsafe. -/
inductive Fault
  deriving DecidableEq, Repr

/-- Why the machine refuses an instruction. -/
inductive Refusal where
  /-- Raised by an arm of `exec` for an instruction that has no meaning yet; safe. Every command has its meaning, so no arm
  raises it. -/
  | notModelled (mnemonic : String)
  deriving DecidableEq, Repr

/-- The state of the block. -/
structure State where
  /-- `S`, the surface (R20). -/
  surface : Memory
  /-- `ROT`, 1 = SETPIXEL turns its coordinates by 180 degrees (R22). -/
  rot : Bool
  /-- `LEVEL`, 255 is brightest (R23). -/
  level : Byte
  /-- `DUTY`, the PWM compare value, 0 is brightest (R24). -/
  duty : Byte
  /-- `PHASE`, the dither phase, 0 to 3 (R31). -/
  phase : BitVec 2
  /-- `PV`, the physical vector; bit p is `PV[p]` (R25). -/
  pv : Row
  /-- `SEQ`, the sequencer position (R26). -/
  seq : Seq
  /-- The level of the pin `DATA` (R27). -/
  data : Bool
  /-- The level of the pin `CLK` (R27). -/
  clk : Bool
  /-- The level of the pin `LAT` (R27). -/
  lat : Bool
  /-- `CNT`, the PWM counter, 0 to `PWM_PERIOD` - 1 (R30). -/
  cnt : Byte
  /-- `SR`, the shift register of the chain; bit k is `SR[k]`, stage 0 next to `DATA` (R28). -/
  sr : Row
  /-- `OUT`, the output latches of the chain; bit k is `OUT[k]` (R29). -/
  out : Row
  /-- `TRACE`, the pin events since reset, oldest first (R32). -/
  trace : List Event
  /-- The model's own field (log entry 1): what the host still puts on `cmd_valid` and `cmd_word` (R38, R178). An entry is a
  word, presented until it is accepted, or none, an idle port for one step; after the last entry the port stays idle. -/
  commands : HostList (Option Word)
  /-- The model's own field (log entry 1): what the host still puts on `rst` (R38, R190), one entry a step whatever the
  command port does; after the last entry `rst` stays low. -/
  rstInputs : HostList ResetInput
  /-- The model's own field (log entry 3): the number of this reset, which the free reset values depend on. -/
  resets : Nat
  /-- The model's own field (log entry 6): the number of this step, which the free number of PWM ticks depends on. -/
  draws : Nat
  deriving DecidableEq, Repr

/-- The state right after reset number k: the values of spec/10_state.md R39, with a free value for every element it
calls unspecified, and the model's own fields at their first values. -/
def State.resetAt (k : Nat) : State where
  surface := []
  rot := false
  level := Config.resetLevel k
  duty := Config.resetDuty k
  phase := 0#2
  pv := Config.resetPv k
  seq := .idle
  data := false
  clk := false
  lat := false
  cnt := BitVec.ofNat 8 (Config.resetCnt k % Config.pwmPeriod)
  sr := Config.resetSr k
  out := Config.resetOut k
  trace := []
  commands := ⟨[], none⟩
  rstInputs := ⟨[], none⟩
  resets := k
  draws := 0

/-- The machine right after power-on (R39, R190): idle, waiting for a first command, which no host has issued yet. -/
def State.reset : State := State.resetAt 0

end Sys2Proof.Machine
end

