-- ==== Sys2Proof/Machine/Operands.lean ====
section
/-!
DEFINITION. The arithmetic of operands: the bounds test, the rotation, the cell index, the clamp and the duty value
(spec/40_surface_ops.md R90, R93; spec/20_memory.md R51, R54; spec/42_brightness_pwm.md R140, R141). All of it is over the
mathematical integers and is narrowed only where a rule says so (spec/10_state.md R41).
-/

namespace Sys2Proof.Machine

/-- A coordinate is in 0 to 15 (R54). -/
def coordInRange (v : Int) : Bool := decide (0 ≤ v) && decide (v ≤ 15)

/-- The rotation of one coordinate by `ROT`: v or 15 - v (R90). -/
def rotateCoord (rot : Bool) (v : Int) : Int := if rot then 15 - v else v

/-- The cell index of a logical cell, `16*y + x` (R51). -/
def cellIndex (x y : Int) : Nat := (16 * y + x).toNat

/-- The cell that a SETPIXEL with these coordinates writes, after the rotation; none when either coordinate is out of
range (R90, R54). -/
def pixelCell? (rot : Bool) (x y : Int) : Option Nat :=
  if coordInRange x && coordInRange y then some (cellIndex (rotateCoord rot x) (rotateCoord rot y)) else none

/-- The byte that a SETPIXEL stores: `LEVEL` for an on pixel, even when that is 0, and 0 for an off pixel (R90, R94). -/
def pixelByte (on : Bool) (level : Byte) : Byte := if on then level else 0#8

/-- `clamp(v, lo, hi)`, saturating (spec/00_scope.md R6; R141). -/
def clamp (v lo hi : Int) : Int := if v < lo then lo else if hi < v then hi else v

/-- The byte that SETBRIGHT writes to `LEVEL` (R140). -/
def levelByte (level : Int) : Byte := BitVec.ofInt 8 (clamp level 0 255)

/-- The value of `DUTY` that goes with a clamped level, `255 - level` (R140). -/
def dutyByte (level : Int) : Byte := BitVec.ofInt 8 (255 - clamp level 0 255)

/-- The index of the logical cell (x,y) for coordinates in range by their type (R51). -/
def cellOf (x y : Fin 16) : Index := ⟨16 * y.val + x.val, by omega⟩

/-- The column of a cell, `c mod 16` (R51). -/
def cellX (c : Index) : Fin 16 := ⟨c.val % 16, by omega⟩

/-- The row of a cell, `c div 16` (R51). -/
def cellY (c : Index) : Fin 16 := ⟨c.val / 16, by omega⟩

/-- The stage that holds the bit of physical position p after a whole frame, `255 - p`
(spec/41_render_serializer.md R118). -/
def stageOf (p : Index) : Index := ⟨255 - p.val, by omega⟩

/-- The vector v with its bit p set to b. -/
def setBit (v : Row) (p : Index) (b : Bool) : Row := BitVec.ofFnLE fun q => if q = p then b else v.getLsbD q.val

/-- The shift of the chain by one stage: stage k takes stage k - 1 and stage 0 takes `DATA`
(spec/41_render_serializer.md R116). -/
def shiftIn (sr : Row) (data : Bool) : Row := sr.shiftConcat data

end Sys2Proof.Machine
end

