-- ==== Sys2Proof/Machine/Ops.lean ====
section
/-!
DEFINITION. The shared operations: reading and writing the surface, driving a pin with the chain's reaction, and taking a
reset. The block has no exception to take and none to return from (spec/60_exceptions.md R170, R174, R175).
-/

namespace Sys2Proof.Machine

/-- The canonical form of a surface: the cell numbers rise strictly and each is a cell, 0 to 255. An unlisted cell has no
known byte, so no entry can equal what an unlisted cell holds (log entry 2). -/
abbrev Memory.wf (m : Memory) : Prop :=
  (m.map Prod.fst).Pairwise (· < ·) ∧ ∀ c ∈ m.map Prod.fst, c < 256

/-- The known byte of a cell, if it has one. -/
def Memory.get? : Memory → Nat → Option Byte
  | [], _ => none
  | (a, v) :: m, c => if a = c then some v else Memory.get? m c

/-- Write one byte (spec/00_scope.md R8), keeping the cell numbers in order. -/
def Memory.set : Memory → Nat → Byte → Memory
  | [], c, v => [(c, v)]
  | (a, w) :: m, c, v =>
    if c < a then (c, v) :: (a, w) :: m
    else if c = a then (c, v) :: m
    else (a, w) :: Memory.set m c v

/-- Write the same byte to all 256 cells at once (spec/40_surface_ops.md R91). -/
def Memory.fill (v : Byte) : Memory := (List.range 256).map fun c => (c, v)

/-- `S[c]`: the byte written last, or the free value that the cell holds since reset (R39, U1; log entry 2). -/
def cellByte (s : State) (c : Nat) : Byte := (s.surface.get? c).getD (Config.resetSurface s.resets c)

/-- The whole surface as a function of the cell. -/
def surfaceOf (s : State) : Index → Byte := fun c => cellByte s c.val

/-- `S[c] <- v` (spec/00_scope.md R8). -/
def setCell (c : Nat) (v : Byte) (s : State) : State := { s with surface := s.surface.set c v }

/-- `S[c] <- v` for every c (R91). -/
def fillSurface (v : Byte) (s : State) : State := { s with surface := Memory.fill v }

/-- `ROT <- r` (spec/10_state.md R22). -/
def setRot (r : Bool) (s : State) : State := { s with rot := r }

/-- `LEVEL <- level` and `DUTY <- duty`, together (spec/10_state.md R24). -/
def setBrightness (level duty : Byte) (s : State) : State := { s with level := level, duty := duty }

/-- `PHASE <- p` (spec/10_state.md R31). -/
def setPhase (p : BitVec 2) (s : State) : State := { s with phase := p }

/-- `PV <- v` (spec/10_state.md R25). -/
def setPv (v : Row) (s : State) : State := { s with pv := v }

/-- `SEQ <- q` (spec/10_state.md R26). -/
def setSeq (q : Seq) (s : State) : State := { s with seq := q }

/-- Append an event to `TRACE` (spec/10_state.md R32). -/
def record (e : Event) (s : State) : State := { s with trace := s.trace ++ [e] }

/-- A pin goes to a level. -/
def setPin (p : Pin) (b : Bool) (s : State) : State :=
  match p with
  | .data => { s with data := b }
  | .clk => { s with clk := b }
  | .lat => { s with lat := b }

/-- The chain's reaction to an event, which still finds the pins as they were before it: a rising edge of `CLK` shifts by
one stage, a rising edge of `LAT` copies the stages into the latches, and nothing else moves the chain
(spec/41_render_serializer.md R116, R117, R126). -/
def chainReact (p : Pin) (b : Bool) (s : State) : State :=
  match p with
  | .data => s
  | .clk => { s with sr := if b && !s.clk then shiftIn s.sr s.data else s.sr }
  | .lat => { s with out := if b && !s.lat then s.sr else s.out }

/-- `drive P <- b`: the event is recorded whether or not the level changes, the chain reacts, and the pin is at the level
(spec/00_scope.md R10). -/
def drive (p : Pin) (b : Bool) (s : State) : State := setPin p b (chainReact p b (record (p, b) s))

/-- `pulse P`: high, then low (R10). -/
def pulse (p : Pin) (s : State) : State := drive p false (drive p true s)

/-- Reset, at any point of a RENDER too: every state element takes its reset value at once, and the elements without a
definite one take new free values (spec/70_reset_and_hazards.md R190, R191). What the host does next and the numbering of
the steps go on. -/
def takeReset (s : State) : State :=
  { State.resetAt (s.resets + 1) with commands := s.commands, rstInputs := s.rstInputs, draws := s.draws }

end Sys2Proof.Machine
end

