-- ==== Sys2Proof/Machine/Flags.lean ====
section
/-!
DEFINITION. The one status flag `BUSY` and the port `cmd_ready` that follows from it (spec/10_state.md R33, R38). There are
no condition codes, and no command writes a flag other than through `SEQ`.
-/

namespace Sys2Proof.Machine

/-- `BUSY`: the sequencer is not in `IDLE`. It is derived, not stored (R33). -/
def State.busy (s : State) : Bool := s.seq != .idle

/-- The output port `cmd_ready`, `1 - BUSY` (R38). -/
def State.cmdReady (s : State) : Bool := !s.busy

end Sys2Proof.Machine
end

