-- ==== Sys2Proof/Machine/Brightness.lean ====
section
/-!
DEFINITION. The brightness path (spec/42_brightness_pwm.md): SETBRIGHT, DSTEP, and the PWM generator, an agent of its own
that runs all the time.
-/

namespace Sys2Proof.Machine

/-- SETBRIGHT (R140): the clamped level and its duty value, together. -/
def execSetbright (level : Int) (s : State) : Host.Outcome State Fault Refusal :=
  .next (setBrightness (levelByte level) (dutyByte level) s)

/-- DSTEP (R146): the phase goes round modulo 4, which is the wrap of its two bits. -/
def execDstep (s : State) : Host.Outcome State Fault Refusal := .next (setPhase (s.phase + 1#2) s)

/-- The level of `EN` for a counter value and a duty value: high while `CNT < DUTY`, as unsigned integers (R142). -/
def enLevel (cnt duty : Byte) : Bool := decide (cnt.toNat < duty.toNat)

/-- The output pin `EN`, a function of `CNT` and `DUTY`; low enables the LEDs (R142, R143; spec/10_state.md R30). -/
def State.en (s : State) : Bool := enLevel s.cnt s.duty

/-- `CNT` after one PWM tick, for a given `PWM_PERIOD` (R142). -/
def cntNext (period : Nat) (cnt : Byte) : Byte := BitVec.ofNat 8 ((cnt.toNat + 1) % period)

/-- `CNT` after n PWM ticks. -/
def cntAfter (period : Nat) : Nat → Byte → Byte
  | 0, cnt => cnt
  | n + 1, cnt => cntAfter period n (cntNext period cnt)

/-- One PWM tick of the block (R142). -/
def pwmTick (s : State) : State := { s with cnt := cntNext Config.pwmPeriod s.cnt }

/-- The PWM generator during one step of the machine: it makes a free number of ticks, in which it touches nothing but
`CNT` (R142; spec/60_exceptions.md R173; log entry 6). -/
def freeRun (s : State) : State :=
  { s with cnt := cntAfter Config.pwmPeriod (Config.pwmTicks s.draws) s.cnt, draws := s.draws + 1 }

end Sys2Proof.Machine
end

