-- ==== Sys2Proof/Machine/Render.lean ====
section
/-!
DEFINITION. RENDER and the serializer sequencer that performs it (spec/41_render_serializer.md). The functions that read
the map take it as an argument, so that they can be evaluated on any bijection; the block's own is `Config.hwmap`.
-/

namespace Sys2Proof.Machine

/-- RENDER, as its acceptance: the sequencer leaves `IDLE` for `BUILD` (R114). Its steps do the rest, one a step of the
machine, and `renderWhole` says what they come to. -/
def execRender (s : State) : Host.Outcome State Fault Refusal := .next (setSeq .build s)

/-- `Build`, from a surface to the physical vector: bit p says whether the one cell mapped to p is not 0. It sees neither
pins nor any other state (R111, R125). -/
def buildVector (hwmap : Equiv.Perm Index) (surf : Index → Byte) : Row :=
  BitVec.ofFnLE fun p => surf (hwmap.symm p) != 0#8

/-- `HWMAP(x,y)` (spec/10_state.md R21; spec/00_scope.md R8). -/
def mapAt (hwmap : Equiv.Perm Index) (x y : Fin 16) : Index := hwmap (cellOf x y)

/-- The place that follows a place of the sequencer; the order is fixed and has no branch (spec/10_state.md R26; R112 to
R114). -/
def Seq.after : Seq → Seq
  | .idle => .idle
  | .build => .shift 0 .dataSet
  | .shift i .dataSet => .shift i .clkHigh
  | .shift i .clkHigh => .shift i .clkLow
  | .shift i .clkLow => if h : i.val < 255 then .shift ⟨i.val + 1, by omega⟩ .dataSet else .latch .latHigh
  | .latch .latHigh => .latch .latLow
  | .latch .latLow => .idle

/-- What the sequencer does at its place, before it moves on (R111, R112, R113); in `IDLE` it does nothing. -/
def seqAct (hwmap : Equiv.Perm Index) (s : State) : State :=
  match s.seq with
  | .idle => s
  | .build => setPv (buildVector hwmap (surfaceOf s)) s
  | .shift i .dataSet => drive .data (s.pv.getLsbD i.val) s
  | .shift _ .clkHigh => drive .clk true s
  | .shift _ .clkLow => drive .clk false s
  | .latch .latHigh => drive .lat true s
  | .latch .latLow => drive .lat false s

/-- One step of the sequencer, for a given map. -/
def seqStepWith (hwmap : Equiv.Perm Index) (s : State) : State := setSeq s.seq.after (seqAct hwmap s)

/-- One step of the block's sequencer. -/
def seqStep (s : State) : State := seqStepWith Config.hwmap s

/-- How many steps the sequencer makes in one RENDER: the build step, three for each bit, and two for the latch
(R111 to R113). -/
def renderSteps : Nat := 1 + 3 * 256 + 2

/-- Step 1 of RENDER as R110 words it: walk all logical cells and set, for each, the bit at its physical position. -/
def buildWalk (hwmap : Equiv.Perm Index) (surf : Index → Byte) (pv : Row) : Row :=
  (List.finRange 256).foldl (fun v c => setBit v (hwmap c) (surf c != 0#8)) pv

/-- Step 2 of RENDER for one bit: `DATA`, then one pulse of `CLK` (R110). -/
def shiftBit (s : State) (i : Index) : State := pulse .clk (drive .data (s.pv.getLsbD i.val) s)

/-- The first j of the 256 shift steps of RENDER. -/
def shiftBits (j : Nat) (s : State) : State := ((List.finRange 256).take j).foldl shiftBit s

/-- The whole command RENDER as one transition (R110), for a given map. -/
def renderWholeWith (hwmap : Equiv.Perm Index) (s : State) : State :=
  setSeq .idle (pulse .lat (shiftBits 256 (setPv (buildWalk hwmap (surfaceOf s) s.pv) s)))

/-- The whole command RENDER of the block as one transition (R110). -/
def renderWhole (s : State) : State := renderWholeWith Config.hwmap s

end Sys2Proof.Machine
end

