-- ==== Sys2Proof/Machine/Surface.lean ====
section
/-!
DEFINITION. The surface commands SETPIXEL, CLEAR and SETROT (spec/40_surface_ops.md). Each is the performing of a command
that the port has accepted; the port accepts none while `BUSY = 1` (log entry 8).
-/

namespace Sys2Proof.Machine

/-- SETPIXEL (R90): one byte is written, or nothing at all when a coordinate is out of range. -/
def execSetpixel (x y : Int) (on : Bool) (s : State) : Host.Outcome State Fault Refusal :=
  match pixelCell? s.rot x y with
  | some c => .next (setCell c (pixelByte on s.level) s)
  | none => .next s

/-- CLEAR (R91): every cell becomes 0. -/
def execClear (s : State) : Host.Outcome State Fault Refusal := .next (fillSurface 0#8 s)

/-- SETROT (R92). -/
def execSetrot (r : Bool) (s : State) : Host.Outcome State Fault Refusal := .next (setRot r s)

end Sys2Proof.Machine
end

