-- ==== Sys2Proof/Machine/Dispatch.lean ====
section
/-!
DEFINITION. The one match from a command to its meaning.
-/

namespace Sys2Proof.Machine

/-- Perform an accepted command (spec/30_encoding.md R70): each command by its own meaning. -/
def exec (i : Instr) (s : State) : Host.Outcome State Fault Refusal :=
  match i with
  | .setpixel x y on => Sys2Proof.Machine.execSetpixel x y on s
  | .clear => Sys2Proof.Machine.execClear s
  | .render => Sys2Proof.Machine.execRender s
  | .setbright level => Sys2Proof.Machine.execSetbright level s
  | .setrot r => Sys2Proof.Machine.execSetrot r s
  | .dstep => Sys2Proof.Machine.execDstep s

end Sys2Proof.Machine
end

