-- ==== Sys2Proof/Machine/Port.lean ====
section
/-!
DEFINITION. The ports of the block (spec/10_state.md R38), and what one step does at the command port
(spec/30_encoding.md R80; spec/60_exceptions.md R173).
-/

namespace Sys2Proof.Machine

/-- The present entry of a host's list, given the stream that an endless one goes on with; none after the last. -/
def HostList.head? {α : Type} (stream : Nat → α) (l : HostList α) : Option α :=
  match l.listed with
  | a :: _ => some a
  | [] => l.later.map stream

/-- The list without its present entry. -/
def HostList.next {α : Type} (l : HostList α) : HostList α :=
  match l.listed with
  | _ :: as => ⟨as, l.later⟩
  | [] => ⟨[], l.later.map (· + 1)⟩

/-- The list with one more entry, the present one. -/
def HostList.push {α : Type} (a : α) (l : HostList α) : HostList α := ⟨a :: l.listed, l.later⟩

/-- What the host does on `rst` in this step; low after the last entry. -/
def State.rstInput (s : State) : ResetInput := (s.rstInputs.head? Config.hostReset).getD .low

/-- The input port `rst` in this step (R38). It does not depend on what is presented at the command port. -/
def State.rstPin (s : State) : Bool := s.rstInput != .low

/-- The input ports `cmd_valid` and `cmd_word` in this step: the word presented, if any (R38). -/
def State.cmdWord? (s : State) : Option Word := (s.commands.head? Config.hostCommand).join

/-- The input port `cmd_valid` in this step (R38). -/
def State.cmdValid (s : State) : Bool := s.cmdWord?.isSome

/-- The test-bench port `tb_pv` (R38; spec/60_exceptions.md R181). -/
def State.tbPv (s : State) : Row := s.pv

/-- The host goes on at both of its ports: what it presented has been accepted or withdrawn, or it presented nothing. -/
def hostNext (s : State) : State := { s with commands := s.commands.next, rstInputs := s.rstInputs.next }

/-- The host goes on at `rst` and keeps presenting the same word, unchanged. -/
def hostKeep (s : State) : State := { s with rstInputs := s.rstInputs.next }

/-- The host in a step that accepts nothing: a word it presents is held until it is accepted (R33, R80), and an idle port
has been idle for one step. -/
def hostHold (s : State) : State := if s.cmdValid then hostKeep s else hostNext s

/-- The host in a step in which it resets the block: the acceptance does not happen (R173), so a word it presents is held as
in any step that accepts nothing, unless the host withdraws it. -/
def hostReset (s : State) : State := if s.rstInput = .highWithdraw then hostNext s else hostHold s

/-- The PWM generator runs beside whatever else happens in a step (spec/42_brightness_pwm.md R142). -/
def withFreeRun (o : Host.Outcome State Fault Refusal) : Host.Outcome State Fault Refusal :=
  match o with
  | .next t => .next (freeRun t)
  | .fault f => .fault f
  | .refused r => .refused r

/-- Accept a word and perform it: a command by its meaning; a reserved word is accepted like any other and then ignored
(R80, R74). -/
def accept (w : Word) (s : State) : Host.Outcome State Fault Refusal :=
  match decode w with
  | .ok i => withFreeRun (exec i (hostNext s))
  | .error _ => withFreeRun (.next (hostNext s))

/-- A step in which no word is accepted: the sequencer takes one step, which is none in `IDLE` (R33; R173). -/
def runOn (s : State) : Host.Outcome State Fault Refusal := withFreeRun (.next (seqStep (hostHold s)))

/-- What one step of the machine does. Reset wins over everything, also over the acceptance of a word that is presented in
the same step, and may come while a word is held (R173); a word is accepted when it is presented and
`cmd_ready = 1` (R38, R80); in every other step the sequencer runs on. -/
def portStep (s : State) : Host.Outcome State Fault Refusal :=
  if s.rstPin then .next (takeReset (hostReset s))
  else if s.cmdReady then
    match s.cmdWord? with
    | some w => accept w s
    | none => runOn s
  else runOn s

/-- The state s with the word w presented in the present step, `rst` low in it, and the block ready to accept the word (log
entry 9). -/
def present (w : Word) (s : State) : State :=
  { s with commands := s.commands.push (some w), rstInputs := s.rstInputs.push .low, seq := .idle }

end Sys2Proof.Machine
end

