-- ==== Sys2Proof/Machine/Step.lean ====
section
/-!
DEFINITION. One step of the machine: the command port or the sequencer acts, and the PWM generator runs beside it.
-/

namespace Sys2Proof.Machine

/-- One step (spec/30_encoding.md R80; spec/60_exceptions.md R173). -/
def step (s : State) : Host.Outcome State Fault Refusal := portStep s

/-- The state s in which the next step accepts and performs the instruction whose bits are w. -/
def State.withFetchWord (s : State) (nbits w : Nat) : State := present (tableWord nbits w) s

end Sys2Proof.Machine
end

