-- ==== Sys2Proof/Machine/Assembler.lean ====
section
/-!
DEFINITION. The assembler's notation (spec/30_encoding.md R76, R77): one line to at most one command word. It is no part of
the machine; programs of the spec are written in it.
-/

namespace Sys2Proof.Machine

/-- Why a line is refused. -/
inductive AsmError where
  /-- The line starts with no mnemonic of R76 or R77. -/
  | mnemonic
  /-- An operand is missing, or one too many, or not a literal of R76. -/
  | operand
  /-- An operand does not fit its field (R76; spec/93_implementation_defined.md U11). -/
  | noEncoding
  deriving DecidableEq, Repr

/-- A space, a tab or a carriage return. -/
def isBlank (c : Char) : Bool := c == ' ' || c == '\t' || c == '\r'

/-- The text without blanks at its two ends. -/
def trimBlanks (cs : List Char) : List Char := ((cs.dropWhile isBlank).reverse.dropWhile isBlank).reverse

/-- The text before the first `;`: a comment runs to the end of the line (R76). -/
def dropComment (cs : List Char) : List Char := cs.takeWhile (· != ';')

/-- The pieces between commas. -/
def splitCommas : List Char → List (List Char)
  | [] => [[]]
  | c :: cs =>
    match splitCommas cs with
    | [] => [[c]]
    | p :: ps => if c == ',' then [] :: p :: ps else (c :: p) :: ps

/-- The value of a decimal digit. -/
def decDigit? (c : Char) : Option Nat :=
  if 48 ≤ c.toNat ∧ c.toNat ≤ 57 then some (c.toNat - 48) else none

/-- The value of a hexadecimal digit, of either case. -/
def hexDigit? (c : Char) : Option Nat :=
  if 97 ≤ c.toNat ∧ c.toNat ≤ 102 then some (c.toNat - 87)
  else if 65 ≤ c.toNat ∧ c.toNat ≤ 70 then some (c.toNat - 55)
  else decDigit? c

/-- The value of digits, most significant first, after the digits read so far. -/
def digitsFrom (digit? : Char → Option Nat) (base : Nat) : Nat → List Char → Option Nat
  | acc, [] => some acc
  | acc, c :: cs =>
    match digit? c with
    | some d => digitsFrom digit? base (base * acc + d) cs
    | none => none

/-- The value of a string of digits, of which there is at least one. -/
def digits? (digit? : Char → Option Nat) (base : Nat) (cs : List Char) : Option Nat :=
  if cs.isEmpty then none else digitsFrom digit? base 0 cs

/-- An integer operand: decimal with an optional leading `-`, or hexadecimal with the prefix `0x`, unsigned (R76). -/
def integer? : List Char → Option Int
  | '-' :: cs => (digits? decDigit? 10 cs).map fun n => -(n : Int)
  | '0' :: 'x' :: cs => (digits? hexDigit? 16 cs).map fun n => (n : Int)
  | cs => (digits? decDigit? 10 cs).map fun n => (n : Int)

/-- A flag operand, `0` or `1` (R76). -/
def flag? : List Char → Option Bool
  | ['0'] => some false
  | ['1'] => some true
  | _ => none

/-- The word of a command, if its operands fit their fields (R76). -/
def assembleInstr (i : Instr) : Except AsmError Word := if i.wellFormed then .ok (encode i) else .error .noEncoding

/-- The pseudo-instructions (R77). -/
inductive Pseudo where
  /-- `PSET x, y`. -/
  | pset (x y : Int)
  /-- `PCLR x, y`. -/
  | pclr (x y : Int)
  /-- `NOP`. -/
  | nop
  deriving DecidableEq, Repr

/-- What a pseudo-instruction expands to: a SETPIXEL, or the all-zero reserved word (R77). -/
def assemblePseudo : Pseudo → Except AsmError Word
  | .pset x y => assembleInstr (.setpixel x y true)
  | .pclr x y => assembleInstr (.setpixel x y false)
  | .nop => .ok 0x00000000#32

/-- `SETPIXEL x, y, on`. -/
def asmSetpixel : List (List Char) → Except AsmError Word
  | [a, b, f] =>
    match integer? a, integer? b, flag? f with
    | some x, some y, some on => assembleInstr (.setpixel x y on)
    | _, _, _ => .error .operand
  | _ => .error .operand

/-- `SETBRIGHT level`. -/
def asmSetbright : List (List Char) → Except AsmError Word
  | [a] =>
    match integer? a with
    | some level => assembleInstr (.setbright level)
    | none => .error .operand
  | _ => .error .operand

/-- `SETROT r`. -/
def asmSetrot : List (List Char) → Except AsmError Word
  | [f] =>
    match flag? f with
    | some r => assembleInstr (.setrot r)
    | none => .error .operand
  | _ => .error .operand

/-- A mnemonic with two integer operands: `PSET` or `PCLR`. -/
def asmPixelPseudo (make : Int → Int → Pseudo) : List (List Char) → Except AsmError Word
  | [a, b] =>
    match integer? a, integer? b with
    | some x, some y => assemblePseudo (make x y)
    | _, _ => .error .operand
  | _ => .error .operand

/-- A mnemonic without operands. -/
def asmPlain (word : Except AsmError Word) : List (List Char) → Except AsmError Word
  | [] => word
  | _ => .error .operand

/-- A mnemonic in capitals with its operands (R76, R77). -/
def asmCommand (mnemonic : List Char) (operands : List (List Char)) : Except AsmError Word :=
  if mnemonic = "SETPIXEL".toList then asmSetpixel operands
  else if mnemonic = "CLEAR".toList then asmPlain (assembleInstr .clear) operands
  else if mnemonic = "SETROT".toList then asmSetrot operands
  else if mnemonic = "RENDER".toList then asmPlain (assembleInstr .render) operands
  else if mnemonic = "SETBRIGHT".toList then asmSetbright operands
  else if mnemonic = "DSTEP".toList then asmPlain (assembleInstr .dstep) operands
  else if mnemonic = "PSET".toList then asmPixelPseudo .pset operands
  else if mnemonic = "PCLR".toList then asmPixelPseudo .pclr operands
  else if mnemonic = "NOP".toList then asmPlain (assemblePseudo .nop) operands
  else .error .mnemonic

/-- The operands of a line, trimmed; a line without text after its mnemonic has none. -/
def operandsOf (cs : List Char) : List (List Char) :=
  if (trimBlanks cs).isEmpty then [] else (splitCommas cs).map trimBlanks

/-- One line: no word for a blank line or a comment, else the word of its command (R76). -/
def assembleLine (line : List Char) : Except AsmError (Option Word) :=
  match trimBlanks (dropComment line) with
  | [] => .ok none
  | text => (asmCommand (text.takeWhile (!isBlank ·)) (operandsOf (text.dropWhile (!isBlank ·)))).map some

/-- A program, line by line, in issue order (R76). -/
def assembleProgram : List (List Char) → Except AsmError (List Word)
  | [] => .ok []
  | line :: lines =>
    match assembleLine line, assembleProgram lines with
    | .ok (some w), .ok ws => .ok (w :: ws)
    | .ok none, .ok ws => .ok ws
    | .error e, _ => .error e
    | .ok _, .error e => .error e

end Sys2Proof.Machine
end

