-- ==== Sys2Proof/Machine/Observe.lean ====
section
/-!
DEFINITION. What can be seen of the block from outside: which LEDs are lit (spec/41_render_serializer.md R119), the trace of
one RENDER (R115), the lit fraction of a brightness (spec/42_brightness_pwm.md R144), dither masks (R147 to R150), and the
timing formulas over the open durations, which no step depends on (R123; spec/70_reset_and_hazards.md R207, R208).
-/

namespace Sys2Proof.Machine

/-- The LED at physical position p is driven: its latch holds 1 (spec/10_state.md R29). -/
def State.ledDriven (s : State) (p : Index) : Bool := s.out.getLsbD (stageOf p).val

/-- The LED at physical position p is lit at this instant: it is driven and `EN = 0` (R119). -/
def State.ledLit (s : State) (p : Index) : Bool := s.ledDriven p && !s.en

/-- The LED of the logical cell (x,y), as stored, is lit at this instant (R119). -/
def State.cellLit (s : State) (x y : Fin 16) : Bool := s.ledLit (mapAt Config.hwmap x y)

/-- The three events of shift step i (R115). -/
def shiftEvents (pv : Row) (i : Index) : List Event := [(.data, pv.getLsbD i.val), (.clk, true), (.clk, false)]

/-- The trace of one RENDER, a function of the physical vector alone (R115). -/
def renderEvents (pv : Row) : List Event :=
  (List.finRange 256).flatMap (shiftEvents pv) ++ [(.lat, true), (.lat, false)]

/-- In how many ticks of one carrier period `EN` is low, for a constant `DUTY` (R142, R143). -/
def enabledTicks (period : Nat) (duty : Byte) : Nat :=
  (List.range period).countP fun c => !enLevel (BitVec.ofNat 8 c) duty

/-- The fraction of time the LED outputs are enabled while `DUTY` is constant (R144). -/
def litFraction (period : Nat) (duty : Byte) : ℚ := (enabledTicks period duty : ℚ) / (period : ℚ)

/-- The `on` operand that a dither mask gives in a phase: bit `PHASE` of the mask (R147). -/
def ditherOn (m : BitVec 4) (phase : BitVec 2) : Bool := m.getLsbD phase.toNat

/-- The number of 1 bits of a mask (spec/00_scope.md R6). -/
def popcount4 (m : BitVec 4) : Nat := (List.range 4).countP fun i => m.getLsbD i

/-- The number of 1 bits of a 256-bit vector (spec/00_scope.md R6). -/
def popcountRow (v : Row) : Nat := (List.finRange 256).countP fun i => v.getLsbD i.val

/-- How many of the frames a mask is on in, among n frames with consecutive phases from `phase` (R150). -/
def framesOn (m : BitVec 4) (n : Nat) (phase : BitVec 2) : Nat :=
  (List.range n).countP fun k => ditherOn m (phase + BitVec.ofNat 2 k)

/-- A pixel's dither fraction (R147). -/
def ditherFraction (m : BitVec 4) : ℚ := (popcount4 m : ℚ) / 4

/-- The fraction of time the LED of a pixel with mask m is lit, over a dither cycle of four equal frames (R149). -/
def ditheredLitFraction (m : BitVec 4) (period : Nat) (duty : Byte) : ℚ := ditherFraction m * litFraction period duty

/-- What the source settles of `DitherMask`, the host's assignment of masks to distances from the head of a trail: the head
is always on and the dither fraction does not rise with the distance. The assignment itself is open (R148; D21). -/
def DitherMaskAllowed (mask : Nat → BitVec 4) : Prop :=
  mask 0 = 0b1111#4 ∧ ∀ d e, d ≤ e → popcount4 (mask e) ≤ popcount4 (mask d)

/-- The open durations of the pulses (R123; D12). -/
structure PulseWidths where
  tSetup : ℚ
  tClkHigh : ℚ
  tClkLow : ℚ
  tLatHigh : ℚ

/-- The least time that passes after an event of the trace before the next one (R123). -/
def PulseWidths.hold (t : PulseWidths) : Event → ℚ
  | (.data, _) => t.tSetup
  | (.clk, true) => t.tClkHigh
  | (.clk, false) => t.tClkLow
  | (.lat, true) => t.tLatHigh
  | (.lat, false) => 0

/-- The least duration of a RENDER of this physical vector, the build step aside (spec/70_reset_and_hazards.md R207). -/
def minDuration (t : PulseWidths) (pv : Row) : ℚ := ((renderEvents pv).map t.hold).sum

/-- The duration of one carrier period, for the open frequency `F_PWM` (spec/70_reset_and_hazards.md R208). -/
def carrierPeriod (fPwm : ℚ) : ℚ := 1 / fPwm

/-- PWM ticks in a second, for the open frequency `F_PWM` (spec/10_state.md R30). -/
def ticksPerSecond (period : Nat) (fPwm : ℚ) : ℚ := (period : ℚ) * fPwm

end Sys2Proof.Machine
end

