-- ==== Sys2Proof/Safety.lean ====
section
/-!
DEFINITION. What claims about runs of the block are made in terms of: a run that goes on, the facts that hold at every
place of the sequencer (spec/10_state.md R40; spec/41_render_serializer.md R118, R120), and what the host puts on the ports.
-/

namespace Sys2Proof.Machine

/-- A step is safe when it ends in a next state; nothing in the block is fatal (spec/60_exceptions.md R170). -/
def Continues (o : Host.Outcome State Fault Refusal) : Prop := ∃ t, o = .next t

/-- The level of `CLK` while the sequencer is at a place: high only between a rise and its fall (R112). -/
def Seq.clkLevel : Seq → Bool
  | .shift _ .clkLow => true
  | _ => false

/-- The level of `LAT` while the sequencer is at a place (R113). -/
def Seq.latLevel : Seq → Bool
  | .latch .latLow => true
  | _ => false

/-- How many of the 770 events of its RENDER the sequencer has made when it is at a place (R115). -/
def Seq.eventsDone : Seq → Nat
  | .idle => 0
  | .build => 0
  | .shift i .dataSet => 3 * i.val
  | .shift i .clkHigh => 3 * i.val + 1
  | .shift i .clkLow => 3 * i.val + 2
  | .latch .latHigh => 768
  | .latch .latLow => 769

/-- How many bits of its RENDER are in the chain when the sequencer is at a place (R118). -/
def Seq.bitsShifted : Seq → Nat
  | .idle => 0
  | .build => 0
  | .shift i .dataSet => i.val
  | .shift i .clkHigh => i.val
  | .shift i .clkLow => i.val + 1
  | .latch _ => 256

/-- The bit of the physical vector that `DATA` shows when the sequencer is at a place, once it has driven one (R112). -/
def Seq.dataBit? : Seq → Option Nat
  | .idle => none
  | .build => none
  | .shift i .dataSet => if i.val = 0 then none else some (i.val - 1)
  | .shift i .clkHigh => some i.val
  | .shift i .clkLow => some i.val
  | .latch _ => some 255

/-- The sequencer is past `BUILD`, so `PV` is the vector of the frame it is shifting out. -/
def Seq.frameBuilt : Seq → Bool
  | .idle => false
  | .build => false
  | .shift _ _ => true
  | .latch _ => true

/-- The first j bits of a vector stand in the last j stages entered, newest first (R118). -/
def Shifted (j : Nat) (pv sr : Row) : Prop := ∀ p, p < j → sr.getLsbD (j - 1 - p) = pv.getLsbD p

/-- The facts that hold in every reachable state: the surface keeps its form, `CNT` stays below `PWM_PERIOD`, and the pins,
the chain, the latches and the trace are what the place of the sequencer says (R26, R27, R30, R40, R115, R118, R120). -/
structure Inv (s : State) : Prop where
  surfaceForm : s.surface.wf
  cntBound : s.cnt.toNat < Config.pwmPeriod
  clkPin : s.clk = s.seq.clkLevel
  latPin : s.lat = s.seq.latLevel
  dataPin : ∀ i, s.seq.dataBit? = some i → s.data = s.pv.getLsbD i
  snapshot : s.seq.frameBuilt = true → s.pv = buildVector Config.hwmap (surfaceOf s)
  chain : Shifted s.seq.bitsShifted s.pv s.sr
  latched : s.seq = .latch .latLow → s.out = s.sr
  traceLength : s.trace.length % 770 = s.seq.eventsDone
  traceTail : (renderEvents s.pv).take s.seq.eventsDone <:+ s.trace
  settled : s.seq = .idle → s.trace ≠ [] → s.out = s.sr ∧ Shifted 256 s.pv s.sr ∧ s.data = s.pv.getLsbD 255

/-- `DUTY = 255 - LEVEL`, which holds for ever once one SETBRIGHT has been performed (R40). -/
def DutyMatchesLevel (s : State) : Prop := s.duty.toNat = 255 - s.level.toNat

/-- The host asserts no reset in the present step and the n - 1 steps after it. -/
def NoReset (n : Nat) (s : State) : Prop :=
  ∀ k, k < n → ({ s with rstInputs := HostList.next^[k] s.rstInputs } : State).rstPin = false

/-- The present step accepts the word w: it is presented, `cmd_ready = 1`, and no reset is asserted (R80). -/
def Accepts (s : State) (w : Word) : Prop := s.rstPin = false ∧ s.cmdReady = true ∧ s.cmdWord? = some w

/-- What a host that has performed the boot sequence relies on: two states agree on every element but `CNT` and on every
pin but `EN` (spec/70_reset_and_hazards.md R193). `TRACE` is left out, because two states with different pasts differ in it;
what is appended to it is said beside this relation. The model's own fields are left out too. -/
def SameButCnt (s t : State) : Prop :=
  surfaceOf s = surfaceOf t ∧ s.rot = t.rot ∧ s.level = t.level ∧ s.duty = t.duty ∧ s.phase = t.phase ∧ s.pv = t.pv ∧
  s.seq = t.seq ∧ s.data = t.data ∧ s.clk = t.clk ∧ s.lat = t.lat ∧ s.sr = t.sr ∧ s.out = t.out

/-- One step after another, as long as they end in a next state. -/
def runSteps (n : Nat) (s : State) : Host.Outcome State Fault Refusal := Sys2Proof.core.run n s

end Sys2Proof.Machine
end

