-- ==== Sys2Proof/Certificates/Slice0/Obligations.lean ====
section
/-!
DEFINITION. The statements for the provers, each from a numbered rule of spec/. They are about the machine, and hold for
every map, every `PWM_PERIOD` and every free value.
-/

open Sys2Proof Sys2Proof.Machine

/-! ### Commands and their words -/

/-- R78, which the spec marks as its own inference ([derived: from rule R71, rule R72 and rule R73]): the worked
encodings, read and written. -/
def Obligations.WorkedWordsDecodeAndEncode : Prop :=
  ∀ p ∈ [((0x11006007#32 : Word), Instr.setpixel 6 7 true), (0x11FFF005#32, .setpixel (-1) 5 true),
      (0x10010003#32, .setpixel 16 3 false), (0x20000000#32, .clear), (0x30000000#32, .render),
      (0x40000080#32, .setbright 128), (0x4000FFFB#32, .setbright (-5)), (0x4000012C#32, .setbright 300),
      (0x51000000#32, .setrot true), (0x50000000#32, .setrot false), (0x60000000#32, .dstep)],
    decode p.1 = .ok p.2 ∧ encode p.2 = p.1

/-- R79, which the spec marks as its own inference ([derived: from rule R71, rule R72 and rule R73]): the decoder is the
spec's, command for command; encoding a decoded word gives the word back, and decoding an encoded command whose operands
are in the ranges of R72 gives the command back. -/
def Obligations.DecodeAndEncodeAgree : Prop :=
  (∀ cw : Word, decode? cw =
    if cw &&& 0xFE000000#32 = 0x10000000#32 then
      some (.setpixel (cw.extractLsb 23 12).toInt (cw.extractLsb 11 0).toInt (cw.getLsbD 24))
    else if cw = 0x20000000#32 then some .clear
    else if cw = 0x30000000#32 then some .render
    else if cw &&& 0xFFFF0000#32 = 0x40000000#32 then some (.setbright (cw.extractLsb 15 0).toInt)
    else if cw &&& 0xFEFFFFFF#32 = 0x50000000#32 then some (.setrot (cw.getLsbD 24))
    else if cw = 0x60000000#32 then some .dstep
    else none) ∧
  (∀ (cw : Word) (i : Instr), decode cw = .ok i → encode i = cw ∧ i.wellFormed = true) ∧
  (∀ i : Instr, i.wellFormed = true → decode (encode i) = .ok i)

/-- R73: the six rows are those of the spec, a word is the command of a row exactly when `cw AND mask = match`, and no
word matches two rows. -/
def Obligations.OpcodeRowsAreDisjointAndDecide : Prop :=
  (opcodeRows.map fun r => (r.mnemonic, r.value, r.mask)) =
    [("SETPIXEL", 0x10000000#32, 0xFE000000#32), ("CLEAR", 0x20000000#32, 0xFFFFFFFF#32),
      ("RENDER", 0x30000000#32, 0xFFFFFFFF#32), ("SETBRIGHT", 0x40000000#32, 0xFFFF0000#32),
      ("SETROT", 0x50000000#32, 0xFEFFFFFF#32), ("DSTEP", 0x60000000#32, 0xFFFFFFFF#32)] ∧
  (∀ (cw : Word) (r : OpcodeRow), r ∈ opcodeRows →
    (cw &&& r.mask = r.value ↔ ∃ i, decode cw = .ok i ∧ i.row = r)) ∧
  (∀ (cw : Word) (r r' : OpcodeRow), r ∈ opcodeRows → r' ∈ opcodeRows →
    cw &&& r.mask = r.value → cw &&& r'.mask = r'.value → r = r')

/-- R74: which words are reserved, and that a reserved word is accepted and then changes nothing: the host goes on (log
entry 1), and beside it only the PWM generator has run (log entry 6). -/
def Obligations.ReservedWordIsIgnored : Prop :=
  (∀ cw : Word, decode? cw = none ↔
    (let op := (cw.extractLsb 31 28).toNat
     (op = 0 ∨ 7 ≤ op) ∨
     (op = 1 ∧ cw.extractLsb 27 25 ≠ 0#3) ∨
     ((op = 2 ∨ op = 3 ∨ op = 6) ∧ cw.extractLsb 27 0 ≠ 0#28) ∨
     (op = 4 ∧ cw.extractLsb 27 16 ≠ 0#12) ∨
     (op = 5 ∧ (cw.extractLsb 27 25 ≠ 0#3 ∨ cw.extractLsb 23 0 ≠ 0#24)))) ∧
  (∀ (s : State) (cw : Word), Accepts s cw → decode? cw = none →
    ∃ t, step s = .next t ∧ t = { hostNext s with cnt := t.cnt, draws := t.draws })

/-- R77: the words of the three pseudo-instructions. -/
def Obligations.PseudoInstructionsExpand : Prop :=
  (∀ x y : Int, coordFits x = true → coordFits y = true →
    assemblePseudo (.pset x y) = .ok (encode (.setpixel x y true)) ∧
    assemblePseudo (.pset x y) =
      .ok (0x11000000#32 ||| ((BitVec.ofInt 32 x &&& 0xFFF#32) <<< 12) ||| (BitVec.ofInt 32 y &&& 0xFFF#32)) ∧
    assemblePseudo (.pclr x y) = .ok (encode (.setpixel x y false)) ∧
    assemblePseudo (.pclr x y) =
      .ok (0x10000000#32 ||| ((BitVec.ofInt 32 x &&& 0xFFF#32) <<< 12) ||| (BitVec.ofInt 32 y &&& 0xFFF#32))) ∧
  assemblePseudo .nop = .ok 0x00000000#32 ∧ decode? 0x00000000#32 = none

/-- R76: an assembler refuses a command whose operand does not fit its field, and gives every other command a word that
decodes to it. -/
def Obligations.AssemblerRefusesWhatDoesNotFit : Prop :=
  (∀ i : Instr, i.wellFormed = false → assembleInstr i = .error .noEncoding) ∧
  (∀ i : Instr, i.wellFormed = true → ∃ w, assembleInstr i = .ok w ∧ decode w = .ok i)

/-! ### The command port and the step -/

/-- R80: in a step that accepts a word of a command, the machine performs exactly that command, the host goes on (log
entry 1), and the PWM generator runs beside it (log entry 6). A decoded command is always well-formed. -/
def Obligations.StepPerformsTheAcceptedCommand : Prop :=
  ∀ (s : State) (w : Word) (i : Instr), Accepts s w → decode w = .ok i →
    i.wellFormed = true ∧ ∃ t, exec i (hostNext s) = .next t ∧ step s = .next (freeRun t)

/-- R170: every command is total and nothing faults: for every state and every operand there is a next state, for every
step too, and there is no fault to raise. -/
def Obligations.EveryCommandHasANextState : Prop :=
  (∀ (i : Instr) (s : State), Continues (exec i s)) ∧ (∀ s : State, Continues (step s)) ∧ IsEmpty Fault

/-- R33, R173: while `BUSY = 1` and no reset is asserted, the sequencer takes one step of its own (log entry 11) and a
word that is presented stays presented, unchanged. The lists of the host, which moves on at `rst` and, when it presents no
word, at the command port, are the model's (log entry 1). -/
def Obligations.WordIsHeldWhileBusy : Prop :=
  ∀ s : State, s.busy = true → s.rstPin = false →
    ∃ t, step s = .next t ∧ t.seq = s.seq.after ∧ t.surface = s.surface ∧ t.rot = s.rot ∧ t.level = s.level ∧
      t.duty = s.duty ∧ t.phase = s.phase ∧
      t.rstInputs = s.rstInputs.next ∧
      (∀ w, s.cmdWord? = some w → t.commands = s.commands ∧ t.cmdWord? = some w) ∧
      (s.cmdWord? = none → t.commands = s.commands.next)

/-- R190, R39: a block that is idle and is presented nothing waits: only the PWM generator runs (log entries 1 and 6). -/
def Obligations.IdleBlockWaits : Prop :=
  ∀ s : State, s.busy = false → s.rstPin = false → s.cmdWord? = none →
    ∃ t, step s = .next t ∧ t = { hostNext s with cnt := t.cnt, draws := t.draws }

/-- R58, R80, R173: words leave the host in the order of issue, one in a step, and only by being accepted, or by being
withdrawn by a host that resets the block; no word is lost or overtaken, and in the instant of a reset no word is
accepted. The lists of the host, and its choice at a reset, are the model's (log entries 1 and 12). -/
def Obligations.WordsAreAcceptedInOrder : Prop :=
  ∀ (s t : State) (w : Word), s.cmdWord? = some w → step s = .next t →
    t.rstInputs = s.rstInputs.next ∧
    ((s.rstPin = false ∧ s.busy = true ∧ t.commands = s.commands ∧ t.cmdWord? = some w) ∨
      (s.rstPin = false ∧ s.busy = false ∧ Accepts s w ∧ t.commands = s.commands.next) ∨
      (s.rstPin = true ∧ ¬ Accepts s w ∧
        t.commands = if s.rstInput = .highWithdraw then s.commands.next else s.commands))

/-! ### Reset -/

/-- R39: the elements with a definite reset value have it right after reset, and `CNT` is in its range. -/
def Obligations.ResetValues : Prop :=
  State.reset.rot = false ∧ State.reset.phase = 0#2 ∧ State.reset.seq = .idle ∧ State.reset.busy = false ∧
  State.reset.data = false ∧ State.reset.clk = false ∧ State.reset.lat = false ∧ State.reset.trace = [] ∧
  State.reset.cnt.toNat < Config.pwmPeriod

/-- R190, R191, R173: reset, asserted in any state, in the middle of a RENDER, with a word presented, held, or about to be
accepted, leaves the definite values of R39, an idle block, an empty trace and, for every other element, a value free of
what it was before. That the host goes on is the model's (log entries 1 and 12), and the last clause rests on the model's
free values (log entries 2 and 3) and on a reset step making no PWM tick (log entry 12). -/
def Obligations.ResetWinsInEveryState : Prop :=
  ∀ s : State, s.rstPin = true →
    ∃ t, step s = .next t ∧ t.rot = false ∧ t.phase = 0#2 ∧ t.seq = .idle ∧ t.busy = false ∧ t.data = false ∧
      t.clk = false ∧ t.lat = false ∧ t.trace = [] ∧ t.cnt.toNat < Config.pwmPeriod ∧
      t.commands = (hostReset s).commands ∧ t.rstInputs = s.rstInputs.next ∧
      (∀ u : State, u.rstPin = true → u.resets = s.resets → ∃ v, step u = .next v ∧
        surfaceOf v = surfaceOf t ∧ v.level = t.level ∧ v.duty = t.duty ∧ v.pv = t.pv ∧ v.sr = t.sr ∧ v.out = t.out ∧
        v.cnt = t.cnt)

/-- The invariant of the next statement holds right after power-on; R40, which the spec marks as its own inference. -/
def Obligations.InvariantHoldsAtReset : Prop := Inv State.reset

/-- R40, R115, R118 and R120, which the spec marks as its own inferences, with R26, R27 and R30: every step keeps the
invariant, from every state that has it. The form of the surface is the model's (log entry 2). -/
def Obligations.StepKeepsTheInvariant : Prop := ∀ s t : State, Inv s → step s = .next t → Inv t

/-! ### SETPIXEL, CLEAR, SETROT -/

/-- R90: SETPIXEL with both coordinates in range stores `LEVEL` or 0 in the one cell its coordinates name after the
rotation; with a coordinate out of range it changes no state at all. -/
def Obligations.SetPixelWritesOneCellOrNothing : Prop :=
  ∀ (s : State) (x y : Int) (on : Bool),
    ((0 ≤ x ∧ x ≤ 15 ∧ 0 ≤ y ∧ y ≤ 15) →
      ∃ t, exec (.setpixel x y on) s = .next t ∧ t = { s with surface := t.surface } ∧
        ∀ c : Index, cellByte t c.val =
          if (c.val : Int) = (if s.rot then 16 * (15 - y) + (15 - x) else 16 * y + x) then
            (if on then s.level else 0#8)
          else cellByte s c.val) ∧
    (¬(0 ≤ x ∧ x ≤ 15 ∧ 0 ≤ y ∧ y ≤ 15) → exec (.setpixel x y on) s = .next s)

/-- The frame of SETPIXEL: nothing but the surface changes, and of the surface only the cell it stores to; a SETPIXEL that
stores to no cell leaves every cell as it was (R55, R95). -/
def Obligations.SetPixelFrame : Prop :=
  ∀ (s t : State) (x y : Int) (on : Bool), exec (.setpixel x y on) s = .next t →
    t = { s with surface := t.surface } ∧
    (∀ c : Nat, pixelCell? s.rot x y ≠ some c → cellByte t c = cellByte s c) ∧
    (∀ c : Nat, pixelCell? s.rot x y = some c → c < 256 ∧ cellByte t c = pixelByte on s.level) ∧
    (s.surface.wf → t.surface.wf)

/-- R93, which the spec marks as its own inference ([derived: from rule R90 and rule R51]): the rotation is its own
inverse, keeps the range test, and is `255 - c` on cell indices. -/
def Obligations.RotationIsAnInvolution : Prop :=
  (∀ v : Int, rotateCoord true (rotateCoord true v) = v ∧ rotateCoord true v = 15 - v) ∧
  (∀ v : Int, coordInRange (rotateCoord true v) = coordInRange v) ∧
  (∀ x y : Int, pixelCell? true x y = (pixelCell? false x y).map fun c => 255 - c) ∧
  (∀ x y : Int, pixelCell? true (rotateCoord true x) (rotateCoord true y) = pixelCell? false x y)

/-- R56, R58: of two SETPIXELs to the same coordinates the later one's value stands, and a repeated one changes nothing
more. -/
def Obligations.LaterSetPixelStands : Prop :=
  ∀ (s t : State) (x y : Int) (on on' : Bool), exec (.setpixel x y on) s = .next t →
    exec (.setpixel x y on') t = exec (.setpixel x y on') s

/-- R91: CLEAR makes every cell 0, from any state, and changes nothing else. -/
def Obligations.ClearZeroesTheSurface : Prop :=
  ∀ s : State, ∃ t, exec .clear s = .next t ∧ (∀ c : Index, cellByte t c.val = 0#8) ∧
    t = { s with surface := t.surface }

/-- R92: SETROT writes `ROT` and nothing else: no cell of the surface moves. -/
def Obligations.SetRotSelectsTheRotation : Prop :=
  ∀ (s : State) (r : Bool), exec (.setrot r) s = .next { s with rot := r }

/-- R95: SETPIXEL, CLEAR and SETROT leave `DUTY`, `PHASE`, `PV`, `SEQ`, the pins, `SR`, `OUT`, `CNT` and `TRACE` alone.
They keep the form of the surface, and CLEAR gives it that form from any list (the form is the model's: log entry 2). -/
def Obligations.SurfaceCommandsLeaveTheOutputsAlone : Prop :=
  ∀ (i : Instr) (s t : State), ((∃ x y on, i = .setpixel x y on) ∨ i = .clear ∨ ∃ r, i = .setrot r) →
    exec i s = .next t →
    t.level = s.level ∧ t.duty = s.duty ∧ t.phase = s.phase ∧ t.pv = s.pv ∧ t.seq = s.seq ∧ t.data = s.data ∧
    t.clk = s.clk ∧ t.lat = s.lat ∧ t.sr = s.sr ∧ t.out = s.out ∧ t.cnt = s.cnt ∧ t.en = s.en ∧ t.trace = s.trace ∧
    (s.surface.wf → t.surface.wf) ∧ (i = .clear → t.surface.wf)

/-! ### SETBRIGHT, the PWM generator, DSTEP -/

/-- R140: SETBRIGHT writes the clamped level to `LEVEL` and 255 less it to `DUTY`, and nothing else. -/
def Obligations.SetBrightClampsAndInverts : Prop :=
  ∀ (s : State) (level : Int), ∃ t, exec (.setbright level) s = .next t ∧
    (t.level.toNat : Int) = (if level < 0 then 0 else if 255 < level then 255 else level) ∧
    (t.duty.toNat : Int) = 255 - (if level < 0 then 0 else if 255 < level then 255 else level) ∧
    t = { s with level := t.level, duty := t.duty }

/-- R141, which the spec marks as its own inference ([derived: from rule R140]): the duty value is the bitwise complement
of the level, the map is its own inverse on bytes, and every byte is the level of some SETBRIGHT. -/
def Obligations.DutyIsTheComplementOfLevel : Prop :=
  (∀ level : Int, dutyByte level = ~~~(levelByte level)) ∧
  (∀ b : Byte, levelByte (b.toNat : Int) = b ∧ dutyByte ((dutyByte (b.toNat : Int)).toNat : Int) = b)

/-- R40 (2), which the spec marks as its own inference: once a SETBRIGHT has been performed, `DUTY = 255 - LEVEL` for ever
after, as long as no reset comes. -/
def Obligations.DutyFollowsLevelForEver : Prop :=
  (∀ (s t : State) (level : Int), exec (.setbright level) s = .next t → DutyMatchesLevel t) ∧
  (∀ s t : State, DutyMatchesLevel s → s.rstPin = false → step s = .next t → DutyMatchesLevel t)

/-- R146: DSTEP advances the phase by one modulo 4 and changes nothing else. -/
def Obligations.DStepAdvancesThePhase : Prop :=
  ∀ s : State, ∃ t, exec .dstep s = .next t ∧ t.phase.toNat = (s.phase.toNat + 1) % 4 ∧ t = { s with phase := t.phase }

/-- R152: SETBRIGHT and DSTEP leave `S`, `ROT`, `PV`, `SEQ`, the three serializer pins, `SR`, `OUT` and `TRACE` alone. -/
def Obligations.BrightnessCommandsLeaveThePictureAlone : Prop :=
  ∀ (i : Instr) (s t : State), ((∃ level, i = .setbright level) ∨ i = .dstep) → exec i s = .next t →
    t.surface = s.surface ∧ surfaceOf t = surfaceOf s ∧ t.rot = s.rot ∧ t.pv = s.pv ∧ t.seq = s.seq ∧ t.data = s.data ∧
    t.clk = s.clk ∧ t.lat = s.lat ∧ t.sr = s.sr ∧ t.out = s.out ∧ t.cnt = s.cnt ∧ t.trace = s.trace

/-- R142: at each tick `CNT` goes to `(CNT + 1) mod PWM_PERIOD`; `EN` is high exactly while `CNT < DUTY`; over one period
it is high for the first `min(DUTY, PWM_PERIOD)` ticks and low for the rest; a whole period brings `CNT` back; and a step
without reset moves `CNT` by some number of these ticks and by nothing else (the number is free: log entry 6). -/
def Obligations.PwmGeneratorCountsAndCompares : Prop :=
  (∀ s : State, (pwmTick s).cnt.toNat = (s.cnt.toNat + 1) % Config.pwmPeriod ∧
    pwmTick s = { s with cnt := (pwmTick s).cnt }) ∧
  (∀ s : State, s.en = true ↔ s.cnt.toNat < s.duty.toNat) ∧
  (∀ (period : Nat) (duty : Byte) (k : Nat), period = 255 ∨ period = 256 → k < period →
    (enLevel (cntAfter period k 0#8) duty = true ↔ k < min duty.toNat period)) ∧
  (∀ (period : Nat) (cnt : Byte), period = 255 ∨ period = 256 → cnt.toNat < period →
    cntAfter period period cnt = cnt) ∧
  (∀ (s : State) (n : Nat), (pwmTick^[n] s).cnt = cntAfter Config.pwmPeriod n s.cnt) ∧
  (∀ s t : State, s.rstPin = false → step s = .next t → ∃ n, t.cnt = (pwmTick^[n] s).cnt ∧
    t.cnt = cntAfter Config.pwmPeriod n s.cnt)

/-- R144, which the spec marks as its own inference ([derived: from rule R142 and rule R143]): the lit fraction, its two
forms in terms of the level, and that it rises strictly with the level. -/
def Obligations.LitFractionFormula : Prop :=
  (∀ (period : Nat) (duty : Byte), period = 255 ∨ period = 256 →
    litFraction period duty = ((period - min duty.toNat period : Nat) : ℚ) / (period : ℚ)) ∧
  (∀ level : Byte, litFraction 256 (255#8 - level) = ((level.toNat : ℚ) + 1) / 256) ∧
  (∀ level : Byte, litFraction 255 (255#8 - level) = (level.toNat : ℚ) / 255) ∧
  (∀ (period : Nat) (l l' : Byte), period = 255 ∨ period = 256 → l.toNat < l'.toNat →
    litFraction period (255#8 - l) < litFraction period (255#8 - l'))

/-- R151, which the spec marks as its own inference ([derived: from rule R140 and rule R126]): two states that differ only
in `LEVEL` and `DUTY` still differ in nothing else after a RENDER, or any step of the sequencer: the same LEDs are driven. -/
def Obligations.BrightnessOnlyDims : Prop :=
  ∀ (s : State) (l d : Byte),
    renderWhole (setBrightness l d s) = setBrightness l d (renderWhole s) ∧
    seqStep (setBrightness l d s) = setBrightness l d (seqStep s) ∧
    ∀ p : Index, (setBrightness l d s).ledDriven p = s.ledDriven p

/-- R150, which the spec marks as its own inference ([derived: from rule R146, rule R147 and rule R120]): over four frames
with consecutive phases a mask is on in exactly its number of 1 bits, whatever the first phase. -/
def Obligations.MaskIsOnInItsPopcountOfFourFrames : Prop :=
  ∀ (m : BitVec 4) (phase : BitVec 2), framesOn m 4 phase = popcount4 m

/-! ### RENDER -/

/-- R114: RENDER, when accepted, moves the sequencer to `BUILD`, so that `BUSY = 1`, and changes nothing else. -/
def Obligations.RenderStartsTheSequencer : Prop :=
  ∀ s : State, ∃ t, exec .render s = .next t ∧ t = { s with seq := .build } ∧ t.busy = true ∧ t.cmdReady = false

/-- R111: the build step sets every bit of `PV` from the one cell mapped to it and goes on to the first shift step; no pin
moves and nothing is recorded. -/
def Obligations.BuildStepBuildsTheVector : Prop :=
  (∀ (hwmap : Equiv.Perm Index) (surf : Index → Byte) (p c : Index), hwmap c = p →
    ((buildVector hwmap surf).getLsbD p.val = true ↔ surf c ≠ 0#8)) ∧
  (∀ s : State, s.seq = .build →
    seqStep s = { s with pv := buildVector Config.hwmap (surfaceOf s), seq := .shift 0 .dataSet })

/-- R110: walking all cells in any state of `PV` writes every bit once, so it comes to `Build`, and nothing of the old
`PV` shows through. -/
def Obligations.WalkingAllCellsBuildsTheVector : Prop :=
  ∀ (hwmap : Equiv.Perm Index) (surf : Index → Byte) (pv : Row), buildWalk hwmap surf pv = buildVector hwmap surf

/-- R125, which the spec marks as its own inference ([derived: from rule R111 and rule R21]): the number of 1 bits of the
vector is the number of cells that are not 0. -/
def Obligations.VectorHasOneBitPerLitCell : Prop :=
  ∀ (hwmap : Equiv.Perm Index) (surf : Index → Byte),
    popcountRow (buildVector hwmap surf) = (List.finRange 256).countP fun c => surf c != 0#8

/-- R26: the sequencer takes its places in the one fixed order, and leaves `IDLE` only for `BUILD` and only by an accepted
RENDER; counted from `BUILD` it is back in `IDLE` after 771 places and not before. That a step without reset moves a busy
sequencer by exactly one place is the model's (log entry 11). -/
def Obligations.SequencerOrderIsFixed : Prop :=
  (∀ s t : State, s.rstPin = false → step s = .next t →
    t.seq = s.seq.after ∨
    (s.seq = .idle ∧ t.seq = .build ∧ ∃ w, Accepts s w ∧ decode w = .ok .render)) ∧
  (∀ k : Nat, k < renderSteps → Seq.after^[k] .build ≠ .idle) ∧
  Seq.after^[renderSteps] .build = .idle

/-- R112, R113: what each shift and latch step drives and where the sequencer goes next; a driven pin is at its level, and
the event is recorded. -/
def Obligations.SequencerStepsDriveThePins : Prop :=
  (∀ (s : State) (i : Index),
    (s.seq = .shift i .dataSet → seqStep s = setSeq (.shift i .clkHigh) (drive .data (s.pv.getLsbD i.val) s)) ∧
    (s.seq = .shift i .clkHigh → seqStep s = setSeq (.shift i .clkLow) (drive .clk true s)) ∧
    (s.seq = .shift i .clkLow → i.val = 255 → seqStep s = setSeq (.latch .latHigh) (drive .clk false s)) ∧
    (∀ j : Index, s.seq = .shift i .clkLow → j.val = i.val + 1 →
      seqStep s = setSeq (.shift j .dataSet) (drive .clk false s))) ∧
  (∀ s : State, s.seq = .latch .latHigh → seqStep s = setSeq (.latch .latLow) (drive .lat true s)) ∧
  (∀ s : State, s.seq = .latch .latLow → seqStep s = setSeq .idle (drive .lat false s)) ∧
  (∀ (s : State) (b : Bool), (drive .data b s).data = b ∧ (drive .clk b s).clk = b ∧ (drive .lat b s).lat = b ∧
    ∀ p : Pin, (drive p b s).trace = s.trace ++ [(p, b)])

/-- R116: a rising edge of `CLK` shifts the chain by one stage, with the values before the edge; a fall, a `CLK` event
that finds the pin high already, and a `DATA` event change nothing in the chain. -/
def Obligations.RisingClockShiftsTheChain : Prop :=
  ∀ s : State,
    (s.clk = false → (drive .clk true s).sr.getLsbD 0 = s.data ∧
      ∀ k : Nat, 1 ≤ k → k < 256 → (drive .clk true s).sr.getLsbD k = s.sr.getLsbD (k - 1)) ∧
    (s.clk = true → (drive .clk true s).sr = s.sr) ∧
    (drive .clk false s).sr = s.sr ∧
    (∀ b, (drive .data b s).sr = s.sr ∧ (drive .data b s).out = s.out) ∧
    (∀ b, (drive .clk b s).out = s.out)

/-- R117: a rising edge of `LAT` copies every stage into its latch; a fall, or an event that finds `LAT` high already,
changes nothing. -/
def Obligations.RisingLatchCopiesTheChain : Prop :=
  ∀ s : State,
    (s.lat = false → ∀ k : Nat, k < 256 → (drive .lat true s).out.getLsbD k = s.sr.getLsbD k) ∧
    (s.lat = true → (drive .lat true s).out = s.out) ∧
    (drive .lat false s).out = s.out ∧ (∀ b, (drive .lat b s).sr = s.sr)

/-- R126, R40: in a step without reset, `SR` changes only in the steps `SHIFT(i, CLK_HIGH)` and `OUT` only in the step
`LATCH(LAT_HIGH)`, where it becomes `SR`; one place a step is the model's (log entry 11). -/
def Obligations.ChainMovesOnlyInItsOwnSteps : Prop :=
  ∀ s t : State, s.rstPin = false → step s = .next t →
    (t.sr ≠ s.sr → ∃ i, s.seq = .shift i .clkHigh) ∧
    (t.out ≠ s.out → s.seq = .latch .latHigh ∧ t.out = s.sr)

/-- R118, which the spec marks as its own inference ([derived: from rule R112 and rule R116]): after j of the 256 shift
steps the first j bits of `PV` stand in the first j stages, newest first, and the old contents have moved on by j. -/
def Obligations.ShiftStepsFillTheChain : Prop :=
  ∀ (s : State) (j : Nat), s.clk = false → j ≤ 256 →
    (∀ p : Nat, p < j → (shiftBits j s).sr.getLsbD (j - 1 - p) = s.pv.getLsbD p) ∧
    (∀ k : Nat, j ≤ k → k < 256 → (shiftBits j s).sr.getLsbD k = s.sr.getLsbD (k - j))

/-- R115, which the spec marks as its own inference ([derived: from rule R112, rule R113 and rule R10]): one RENDER
appends exactly the 770 events of its vector, 256 on `DATA`, 512 on `CLK` and 2 on `LAT`. -/
def Obligations.RenderRecordsItsEvents : Prop :=
  ∀ s : State,
    (renderWhole s).trace = s.trace ++ renderEvents (renderWhole s).pv ∧
    (∀ pv : Row, (renderEvents pv).length = 770 ∧
      (renderEvents pv).countP (fun e => e.1 = .data) = 256 ∧ (renderEvents pv).countP (fun e => e.1 = .clk) = 512 ∧
      (renderEvents pv).countP (fun e => e.1 = .lat) = 2) ∧
    (∀ (pv : Row) (i : Nat), i < 256 → (renderEvents pv)[3 * i]? = some (.data, pv.getLsbD i) ∧
      (renderEvents pv)[3 * i + 1]? = some (.clk, true) ∧ (renderEvents pv)[3 * i + 2]? = some (.clk, false)) ∧
    (∀ pv : Row, (renderEvents pv)[768]? = some (.lat, true) ∧ (renderEvents pv)[769]? = some (.lat, false))

/-- R110: the steps of the sequencer, one after another from the acceptance of a RENDER, come to the whole command as one
transition, from every state; the sequencer is not back in `IDLE` any earlier. -/
def Obligations.SequencerStepsRefineRender : Prop :=
  ∀ s : State, seqStep^[renderSteps] (setSeq .build s) = renderWhole s ∧
    ∀ k : Nat, k < renderSteps → (seqStep^[k] (setSeq .build s)).busy = true

/-- R120, which the spec marks as its own inference ([derived: from rule R111, rule R117 and rule R118]): from the step
that accepts a RENDER, unless a reset comes, the machine is back in `IDLE` 771 steps later, with the LED of every cell
driven exactly when its byte was not 0, and with everything R120 says of the other elements; the trace has grown by the
events of R115. That it is 771 steps is the model's one place a step (log entry 11). -/
def Obligations.RenderPutsTheSurfaceOnTheLeds : Prop :=
  ∀ (s : State) (w : Word), Inv s → Accepts s w → decode w = .ok .render → NoReset (renderSteps + 1) s →
    ∃ t, runSteps (renderSteps + 1) s = .next t ∧
      (∀ x y : Fin 16, t.out.getLsbD (255 - (mapAt Config.hwmap x y).val) = (cellByte s (16 * y.val + x.val) != 0#8)) ∧
      t.sr = t.out ∧ t.pv = buildVector Config.hwmap (surfaceOf s) ∧ t.data = t.pv.getLsbD 255 ∧ t.clk = false ∧
      t.lat = false ∧ t.seq = .idle ∧ t.surface = s.surface ∧ surfaceOf t = surfaceOf s ∧ t.rot = s.rot ∧
      t.level = s.level ∧ t.duty = s.duty ∧ t.phase = s.phase ∧ t.trace = s.trace ++ renderEvents t.pv

/-- R60, R122, with one place a step (log entry 11): from the acceptance of a RENDER until its latch rises the latches
hold the previous frame, whole, and from then until it ends they hold the new one, whole. -/
def Obligations.FrameChangesAtOneInstant : Prop :=
  ∀ (s t : State) (w : Word) (n : Nat), Inv s → Accepts s w → decode w = .ok .render → NoReset n s →
    n ≤ renderSteps + 1 → runSteps n s = .next t →
    t.out = if n < renderSteps then s.out else (renderWhole s).out

/-- R121: what the whole command leaves unchanged: the surface, `ROT`, `LEVEL`, `DUTY`, `PHASE`, `CNT` and `EN`; and a
RENDER from any later state u whose surface is as the first one left it, whatever happened to the other elements between,
shows the same picture; both start with `CLK` and `LAT` at their idle level. -/
def Obligations.RenderFrame : Prop :=
  ∀ s : State, (renderWhole s).surface = s.surface ∧ surfaceOf (renderWhole s) = surfaceOf s ∧
    (renderWhole s).rot = s.rot ∧ (renderWhole s).level = s.level ∧ (renderWhole s).duty = s.duty ∧
    (renderWhole s).phase = s.phase ∧ (renderWhole s).cnt = s.cnt ∧ (renderWhole s).en = s.en ∧
    (s.clk = false → s.lat = false → ∀ u : State, u.clk = false → u.lat = false →
      surfaceOf u = surfaceOf (renderWhole s) → (renderWhole u).out = (renderWhole s).out)

/-- R124, which the spec marks as its own inference ([derived: from rule R111, rule R115 and rule R120]): if the surface
is the same at two RENDERs, the second builds the same `PV`, emits the same 770 events, and leaves `SR` and `OUT` as the
first left them. -/
def Obligations.SecondRenderShowsTheSamePicture : Prop :=
  ∀ s u : State, s.clk = false → s.lat = false → u.clk = false → u.lat = false → surfaceOf u = surfaceOf s →
    (renderWhole u).pv = (renderWhole s).pv ∧ (renderWhole u).sr = (renderWhole s).sr ∧
    (renderWhole u).out = (renderWhole s).out ∧
    ∃ events, events.length = 770 ∧ (renderWhole s).trace = s.trace ++ events ∧ (renderWhole u).trace = u.trace ++ events

/-- R119: after a RENDER the LED of a cell is lit at an instant exactly when its byte was not 0 and `EN = 0` then. -/
def Obligations.LitCellsAreTheNonzeroCells : Prop :=
  ∀ (s : State) (x y : Fin 16), s.clk = false → s.lat = false →
    ((renderWhole s).cellLit x y = true ↔
      cellByte s (16 * y.val + x.val) ≠ 0#8 ∧ ¬ (renderWhole s).cnt.toNat < (renderWhole s).duty.toNat)

/-- R91, R182: CLEAR then RENDER makes the display dark: every bit of `PV`, `SR` and `OUT` is 0. -/
def Obligations.ClearThenRenderIsDark : Prop :=
  ∀ s t : State, s.clk = false → s.lat = false → exec .clear s = .next t →
    (renderWhole t).pv = 0#256 ∧ (renderWhole t).sr = 0#256 ∧ (renderWhole t).out = 0#256

/-- R207, which the spec marks as its own inference ([derived: from rule R115 and rule R123]): the least duration of a
RENDER, the build step aside, whatever the open widths are. -/
def Obligations.RenderMinimumDuration : Prop :=
  ∀ (t : PulseWidths) (pv : Row),
    minDuration t pv = 256 * (t.tSetup + t.tClkHigh + t.tClkLow) + t.tLatHigh

/-! ### Rules of the whole machine -/

/-- R35: which command writes which register, and that nothing else does: in a step without reset an element changes only
when the step accepts a command that R35 and R50 name as its writer, and `PV`, the pins and the trace only at the places
of the sequencer (one place a step: log entry 11). -/
def Obligations.OnlyItsCommandWritesARegister : Prop :=
  ∀ s t : State, s.rstPin = false → step s = .next t →
    (t.surface ≠ s.surface → ∃ w, Accepts s w ∧
      (decode w = .ok .clear ∨ ∃ x y on, decode w = .ok (.setpixel x y on))) ∧
    (t.rot ≠ s.rot → ∃ w r, Accepts s w ∧ decode w = .ok (.setrot r)) ∧
    (t.level ≠ s.level ∨ t.duty ≠ s.duty → ∃ w level, Accepts s w ∧ decode w = .ok (.setbright level)) ∧
    (t.phase ≠ s.phase → ∃ w, Accepts s w ∧ decode w = .ok .dstep) ∧
    (t.pv ≠ s.pv → s.seq = .build) ∧
    (t.data ≠ s.data ∨ t.clk ≠ s.clk ∨ t.lat ≠ s.lat ∨ t.trace ≠ s.trace → s.busy = true)

/-- R32, R112, R113: in a step without reset the trace is only added to, by at most one event, and that event is the level
the pin then has. At most one event rests on one place a step (log entry 11). -/
def Obligations.TraceOnlyGrows : Prop :=
  ∀ s t : State, s.rstPin = false → step s = .next t →
    t.trace = s.trace ∨
    t.trace = s.trace ++ [(.data, t.data)] ∨ t.trace = s.trace ++ [(.clk, t.clk)] ∨ t.trace = s.trace ++ [(.lat, t.lat)]

/-- R142 and R193, which the spec marks as its own inference: `CNT`, the reset draws and the PWM ticks never leak into
anything else: two states that agree on every element but `CNT` and `TRACE`, and on what the host presents, still do after
a step without reset, and both steps append the same events to their traces, so that equal traces stay equal. The free
number of ticks is log entry 6, the host's lists log entry 1. -/
def Obligations.CounterNeverLeaks : Prop :=
  ∀ s s' t t' : State, SameButCnt s s' → s.commands = s'.commands → s.rstInputs = s'.rstInputs → s.rstPin = false →
    step s = .next t → step s' = .next t' →
    SameButCnt t t' ∧ (∃ events, t.trace = s.trace ++ events ∧ t'.trace = s'.trace ++ events) ∧
      t.commands = t'.commands ∧ t.rstInputs = t'.rstInputs

/-- R192 and R193, which the spec marks as its own inference ([derived: from rule R192, rule R39, ...]): from any two idle
states that have the invariant and whose `ROT` and `PHASE` agree (the two states of two resets, say), the boot sequence
leaves states that agree on every element but `CNT` and `TRACE`, with the level that was set, and both runs append the
same 770 events to their traces. The number of steps is one place a step (log entry 11), and the host's lists are log
entry 1. -/
def Obligations.BootDefinesEveryElement : Prop :=
  ∀ (s s' : State) (level : Int) (rest rest' : List (Option Word)), 1 ≤ level → level ≤ 255 → Inv s → Inv s' →
    s.seq = .idle → s'.seq = .idle → s.rot = s'.rot → s.phase = s'.phase →
    s.commands.listed = [some (encode (.setbright level)), some (encode .clear), some (encode .render)] ++ rest →
    s'.commands.listed = [some (encode (.setbright level)), some (encode .clear), some (encode .render)] ++ rest' →
    NoReset (renderSteps + 3) s → NoReset (renderSteps + 3) s' →
    ∃ t t', runSteps (renderSteps + 3) s = .next t ∧ runSteps (renderSteps + 3) s' = .next t' ∧ SameButCnt t t' ∧
      (∃ events, events.length = 770 ∧ t.trace = s.trace ++ events ∧ t'.trace = s'.trace ++ events) ∧
      t.seq = .idle ∧ (t.level.toNat : Int) = level ∧ (t.duty.toNat : Int) = 255 - level ∧ t.out = 0#256
end

