-- ==== Sys2Proof/Laws/Decode.lean ====
section
/-!
SUPPORT. The command word in numbers: what it is to match a row, what the fields are, and what number an encoded command is.
-/

namespace Sys2Proof

theorem mask_high_iff (k n : Nat) (hk : k + n = 32) (w : Word) (u : BitVec n) :
    w &&& (BitVec.allOnes 32 <<< k) = (u.setWidth 32) <<< k ↔ w.extractLsb' k n = u := by
  constructor
  · intro h
    apply BitVec.eq_of_getLsbD_eq
    intro i hi
    have := congrArg (fun x => x.getLsbD (k + i)) h
    have h1 : k + i < 32 := by omega
    have h2 : i < 32 := by omega
    have h3 : ¬ k + i < k := by omega
    simpa only [BitVec.getLsbD_and, BitVec.getLsbD_shiftLeft, BitVec.getLsbD_allOnes, BitVec.getLsbD_extractLsb', h1, h2, hi, h3,
      Nat.add_sub_cancel_left, decide_true, decide_false, Bool.not_false, Bool.true_and, Bool.and_true, BitVec.getLsbD_setWidth] using this
  · intro h
    apply BitVec.eq_of_getLsbD_eq
    intro i hi
    have := congrArg (fun x => x.getLsbD (i - k)) h
    by_cases hki : i < k
    · simp only [BitVec.getLsbD_and, BitVec.getLsbD_shiftLeft, hki, decide_true, Bool.not_true, Bool.and_false, Bool.false_and]
    · have h1 : i - k < n := by omega
      have h2 : i - k < 32 := by omega
      have h3 : k + (i - k) = i := by omega
      simpa only [BitVec.getLsbD_and, BitVec.getLsbD_shiftLeft, BitVec.getLsbD_allOnes, BitVec.getLsbD_extractLsb', h1, h2, hi, h3, hki,
        decide_true, decide_false, Bool.not_false, Bool.true_and, Bool.and_true, BitVec.getLsbD_setWidth] using this

theorem extract_high_iff (k n : Nat) (hk : k + n = 32) (w : Word) (u : BitVec n) :
    w.extractLsb' k n = u ↔ w.toNat / 2 ^ k = u.toNat := by
  rw [← BitVec.toNat_inj, BitVec.extractLsb'_toNat, Nat.shiftRight_eq_div_pow, Nat.mod_eq_of_lt]
  rw [Nat.div_lt_iff_lt_mul (by positivity), ← Nat.pow_add, show n + k = 32 by omega]
  exact w.isLt

/-! ### Matching a row -/

theorem matches_setpixel_iff (w : Word) : rowSetpixel.matches w = true ↔ w.toNat / 2 ^ 25 = 8 := by
  refine Iff.trans ?_ (extract_high_iff 25 7 rfl w 8#7)
  rw [← mask_high_iff 25 7 rfl]
  simp [OpcodeRow.matches, rowSetpixel]

theorem matches_setbright_iff (w : Word) : rowSetbright.matches w = true ↔ w.toNat / 2 ^ 16 = 0x4000 := by
  refine Iff.trans ?_ (extract_high_iff 16 16 rfl w 0x4000#16)
  rw [← mask_high_iff 16 16 rfl]
  simp [OpcodeRow.matches, rowSetbright]

theorem matches_setrot_iff (w : Word) :
    rowSetrot.matches w = true ↔ w.toNat / 2 ^ 25 = 40 ∧ w.toNat % 2 ^ 24 = 0 := by
  have hhigh : w.toNat / 2 ^ 25 = 40 ↔ w &&& (BitVec.allOnes 32 <<< 25) = BitVec.setWidth 32 40#7 <<< 25 := by
    rw [mask_high_iff 25 7 rfl, extract_high_iff 25 7 rfl]; rfl
  have hlow : w.toNat % 2 ^ 24 = 0 ↔ w &&& 0x00FFFFFF#32 = 0#32 := by
    rw [← BitVec.toNat_inj, BitVec.toNat_and]
    show _ ↔ w.toNat &&& (2 ^ 24 - 1) = 0
    rw [Nat.and_two_pow_sub_one_eq_mod]
  rw [hhigh, hlow]
  simp only [OpcodeRow.matches, rowSetrot, beq_iff_eq]
  have hm : (0xFEFFFFFF#32 : Word) = BitVec.allOnes 32 <<< 25 ||| 0x00FFFFFF#32 := by decide
  have hv : (0x50000000#32 : Word) = BitVec.setWidth 32 40#7 <<< 25 := by decide
  rw [hm, hv]
  constructor
  · intro h
    constructor
    · have := congrArg (· &&& (BitVec.allOnes 32 <<< 25)) h
      simp only [BitVec.and_assoc] at this
      exact this
    · have := congrArg (· &&& 0x00FFFFFF#32) h
      simp only [BitVec.and_assoc] at this
      exact this
  · rintro ⟨h1, h2⟩
    rw [BitVec.and_or_distrib_left, h1, h2]
    decide

theorem matches_full_iff (r : OpcodeRow) (h : r.mask = BitVec.allOnes 32) (w : Word) :
    r.matches w = true ↔ w.toNat = r.value.toNat := by
  rw [OpcodeRow.matches, beq_iff_eq, h, BitVec.and_allOnes, BitVec.toNat_inj]

theorem matches_clear_iff (w : Word) : rowClear.matches w = true ↔ w.toNat = 0x20000000 :=
  matches_full_iff rowClear (by decide) w

theorem matches_render_iff (w : Word) : rowRender.matches w = true ↔ w.toNat = 0x30000000 :=
  matches_full_iff rowRender (by decide) w

theorem matches_dstep_iff (w : Word) : rowDstep.matches w = true ↔ w.toNat = 0x60000000 :=
  matches_full_iff rowDstep (by decide) w

/-! ### The decoder -/

/-- Everything the decoder can answer: a row's command when the number of the word is of that row, else a reserved word. -/
theorem decode_cases (w : Word) :
    (w.toNat / 2 ^ 25 = 8 ∧ decode w = .ok (.setpixel (fieldX w) (fieldY w) (fieldF w))) ∨
    (w.toNat = 0x20000000 ∧ decode w = .ok .clear) ∨
    (w.toNat = 0x30000000 ∧ decode w = .ok .render) ∨
    (w.toNat / 2 ^ 16 = 0x4000 ∧ decode w = .ok (.setbright (fieldLevel w))) ∨
    (w.toNat / 2 ^ 25 = 40 ∧ w.toNat % 2 ^ 24 = 0 ∧ decode w = .ok (.setrot (fieldF w))) ∨
    (w.toNat = 0x60000000 ∧ decode w = .ok .dstep) ∨
    (w.toNat / 2 ^ 25 ≠ 8 ∧ w.toNat ≠ 0x20000000 ∧ w.toNat ≠ 0x30000000 ∧ w.toNat / 2 ^ 16 ≠ 0x4000 ∧
      ¬ (w.toNat / 2 ^ 25 = 40 ∧ w.toNat % 2 ^ 24 = 0) ∧ w.toNat ≠ 0x60000000 ∧ decode w = .error (reservedKind w)) := by
  unfold decode
  simp only [matches_setpixel_iff, matches_clear_iff, matches_render_iff, matches_setbright_iff, matches_setrot_iff,
    matches_dstep_iff]
  by_cases h1 : w.toNat / 2 ^ 25 = 8
  · exact .inl ⟨h1, if_pos h1⟩
  by_cases h2 : w.toNat = 0x20000000
  · exact .inr (.inl ⟨h2, by rw [if_neg h1, if_pos h2]⟩)
  by_cases h3 : w.toNat = 0x30000000
  · exact .inr (.inr (.inl ⟨h3, by rw [if_neg h1, if_neg h2, if_pos h3]⟩))
  by_cases h4 : w.toNat / 2 ^ 16 = 0x4000
  · exact .inr (.inr (.inr (.inl ⟨h4, by rw [if_neg h1, if_neg h2, if_neg h3, if_pos h4]⟩)))
  by_cases h5 : w.toNat / 2 ^ 25 = 40 ∧ w.toNat % 2 ^ 24 = 0
  · exact .inr (.inr (.inr (.inr (.inl ⟨h5.1, h5.2, by rw [if_neg h1, if_neg h2, if_neg h3, if_neg h4, if_pos h5]⟩))))
  by_cases h6 : w.toNat = 0x60000000
  · exact .inr (.inr (.inr (.inr (.inr (.inl ⟨h6, by
      rw [if_neg h1, if_neg h2, if_neg h3, if_neg h4, if_neg h5, if_pos h6]⟩)))))
  · exact .inr (.inr (.inr (.inr (.inr (.inr ⟨h1, h2, h3, h4, h5, h6, by
      rw [if_neg h1, if_neg h2, if_neg h3, if_neg h4, if_neg h5, if_neg h6]⟩)))))

/-! ### The fields -/

theorem fieldX_eq (w : Word) : fieldX w = (BitVec.ofNat 12 (w.toNat / 2 ^ 12)).toInt := by
  have : w.extractLsb' 12 12 = BitVec.ofNat 12 (w.toNat / 2 ^ 12) := by
    rw [← BitVec.toNat_inj, BitVec.extractLsb'_toNat, Nat.shiftRight_eq_div_pow, BitVec.toNat_ofNat]
  rw [fieldX, this]

theorem fieldY_eq (w : Word) : fieldY w = (BitVec.ofNat 12 w.toNat).toInt := by
  have : w.extractLsb' 0 12 = BitVec.ofNat 12 w.toNat := by
    rw [← BitVec.toNat_inj, BitVec.extractLsb'_toNat, Nat.shiftRight_zero, BitVec.toNat_ofNat]
  rw [fieldY, this]

theorem fieldLevel_eq (w : Word) : fieldLevel w = (BitVec.ofNat 16 w.toNat).toInt := by
  have : w.extractLsb' 0 16 = BitVec.ofNat 16 w.toNat := by
    rw [← BitVec.toNat_inj, BitVec.extractLsb'_toNat, Nat.shiftRight_zero, BitVec.toNat_ofNat]
  rw [fieldLevel, this]

theorem fieldF_eq (w : Word) : fieldF w = decide (w.toNat / 2 ^ 24 % 2 = 1) := by
  simp [fieldF, BitVec.getLsbD, Nat.testBit_eq_decide_div_mod_eq]

/-! ### The number of an encoded command -/

theorem encode_setpixel_toNat (x y : Int) (on : Bool) :
    (encode (.setpixel x y on)).toNat =
      0x10000000 + on.toNat * 2 ^ 24 + (BitVec.ofInt 12 x).toNat * 2 ^ 12 + (BitVec.ofInt 12 y).toNat := by
  simp only [encode, BitVec.toNat_append]
  rw [← Nat.shiftLeft_add_eq_or_of_lt (BitVec.isLt _), ← Nat.shiftLeft_add_eq_or_of_lt (BitVec.isLt _)]
  cases on <;> simp [Nat.shiftLeft_eq] <;> omega

theorem encode_setbright_toNat (level : Int) :
    (encode (.setbright level)).toNat = 0x40000000 + (BitVec.ofInt 16 level).toNat := by
  simp only [encode, BitVec.toNat_append]
  rw [← Nat.shiftLeft_add_eq_or_of_lt (BitVec.isLt _)]
  simp [Nat.shiftLeft_eq]

end Sys2Proof
end

