-- ==== Sys2Proof/Laws/Memory.lean ====
section
/-!
SUPPORT. The laws of the surface as a memory: a read after a write, the canonical form, and that equal surfaces are equal
data.
-/

namespace Sys2Proof.Machine

@[simp] theorem Memory.get?_nil (c : Nat) : Memory.get? [] c = none := rfl

theorem Memory.get?_set (m : Memory) (c d : Nat) (v : Byte) :
    (m.set c v).get? d = if d = c then some v else m.get? d := by
  induction m with
  | nil => simp [Memory.set, Memory.get?, eq_comm]
  | cons e m ih =>
    obtain ⟨a, w⟩ := e
    by_cases hlt : c < a
    · simp only [Memory.set, hlt, if_true, Memory.get?, eq_comm (a := c)]
    · by_cases hca : c = a
      · subst hca
        simp only [Memory.set, hlt, if_false, if_true, Memory.get?, eq_comm (a := c)]
        split <;> rfl
      · by_cases had : a = d
        · subst had
          simp [Memory.set, Memory.get?, hlt, hca, Ne.symm hca]
        · simp [Memory.set, Memory.get?, hlt, hca, had, ih]

theorem Memory.get?_set_same (m : Memory) (c : Nat) (v : Byte) : (m.set c v).get? c = some v := by
  simp [Memory.get?_set]

theorem Memory.get?_set_other (m : Memory) {c d : Nat} (v : Byte) (h : d ≠ c) : (m.set c v).get? d = m.get? d := by
  simp [Memory.get?_set, h]

theorem Memory.mem_keys_set (m : Memory) (c k : Nat) (v : Byte) :
    k ∈ (m.set c v).map Prod.fst ↔ k = c ∨ k ∈ m.map Prod.fst := by
  induction m with
  | nil => simp [Memory.set]
  | cons e m ih =>
    obtain ⟨a, w⟩ := e
    by_cases hlt : c < a
    · simp [Memory.set, hlt]
    · by_cases hca : c = a
      · simp [Memory.set, hca]
      · simp only [Memory.set, hlt, hca, if_false, List.map_cons, List.mem_cons, ih]
        tauto

/-- A write keeps the canonical form. -/
theorem Memory.set_wf {m : Memory} (h : m.wf) {c : Nat} (hc : c < 256) (v : Byte) : (m.set c v).wf := by
  refine ⟨?_, fun k hk => ?_⟩
  · have hp := h.1
    clear h
    induction m with
    | nil => simp [Memory.set]
    | cons e m ih =>
      obtain ⟨a, w⟩ := e
      simp only [List.map_cons, List.pairwise_cons] at hp
      by_cases hlt : c < a
      · simp only [Memory.set, hlt, if_true, List.map_cons, List.pairwise_cons]
        refine ⟨fun k hk => ?_, hp⟩
        rcases List.mem_cons.1 hk with rfl | hk
        · exact hlt
        · exact lt_trans hlt (hp.1 k hk)
      · by_cases hca : c = a
        · subst hca
          simp only [Memory.set, hlt, if_false, if_true, List.map_cons, List.pairwise_cons]
          exact hp
        · simp only [Memory.set, hlt, hca, if_false, List.map_cons, List.pairwise_cons]
          refine ⟨fun k hk => ?_, ih hp.2⟩
          rcases (Memory.mem_keys_set m c k v).1 hk with rfl | hk
          · omega
          · exact hp.1 k hk
  · rcases (Memory.mem_keys_set m c k v).1 hk with rfl | hk
    · exact hc
    · exact h.2 k hk

theorem Memory.keys_fill (v : Byte) : (Memory.fill v).map Prod.fst = List.range 256 := by
  simp [Memory.fill, Function.comp_def]

/-- Filling the surface gives the canonical form. -/
theorem Memory.fill_wf (v : Byte) : (Memory.fill v).wf := by
  refine ⟨?_, fun k hk => ?_⟩
  · rw [Memory.keys_fill]; exact List.pairwise_lt_range
  · rw [Memory.keys_fill] at hk; exact List.mem_range.1 hk

theorem Memory.get?_eq_none_iff (m : Memory) (c : Nat) : m.get? c = none ↔ c ∉ m.map Prod.fst := by
  induction m with
  | nil => simp
  | cons e m ih =>
    obtain ⟨a, w⟩ := e
    by_cases h : a = c
    · simp [Memory.get?, h]
    · simp only [Memory.get?, h, if_false, ih, List.map_cons, List.mem_cons, not_or]
      exact ⟨fun hn => ⟨fun hc => h hc.symm, hn⟩, fun hn => hn.2⟩

theorem Memory.get?_map_pair (l : List Nat) (c : Nat) (v : Byte) :
    Memory.get? (l.map fun k => (k, v)) c = if c ∈ l then some v else none := by
  induction l with
  | nil => simp
  | cons a l ih =>
    by_cases h : a = c
    · simp [Memory.get?, h]
    · simp [Memory.get?, h, ih, Ne.symm h]

/-- After a fill every cell holds the byte. -/
theorem Memory.get?_fill (v : Byte) {c : Nat} (hc : c < 256) : (Memory.fill v).get? c = some v := by
  rw [Memory.fill, Memory.get?_map_pair, if_pos (List.mem_range.2 hc)]

/-- The surface right after reset lists nothing and has the canonical form. -/
theorem Memory.reset_wf (k : Nat) : (State.resetAt k).surface.wf := by
  simp [State.resetAt, Memory.wf]

/-- Two surfaces in canonical form that answer every read alike are the same data. -/
theorem Memory.ext {m n : Memory} (hm : m.wf) (hn : n.wf) (h : ∀ c, m.get? c = n.get? c) : m = n := by
  replace hm := hm.1
  replace hn := hn.1
  induction m generalizing n with
  | nil =>
    cases n with
    | nil => rfl
    | cons e n => have := h e.1; simp [Memory.get?] at this
  | cons e m ih =>
    obtain ⟨a, v⟩ := e
    cases n with
    | nil => have := h a; simp [Memory.get?] at this
    | cons f n =>
      obtain ⟨b, w⟩ := f
      simp only [List.map_cons, List.pairwise_cons] at hm hn
      have hab : a = b := by
        by_contra hne
        rcases Nat.lt_or_gt_of_ne hne with hlt | hlt
        · have h1 := h a
          simp only [Memory.get?, if_true, Ne.symm hne, if_false] at h1
          have : a ∈ n.map Prod.fst := by
            by_contra hno
            rw [(Memory.get?_eq_none_iff n a).2 hno] at h1
            exact Option.some_ne_none _ h1
          exact absurd (hn.1 a this) (by omega)
        · have h1 := h b
          simp only [Memory.get?, if_true, hne, if_false] at h1
          have : b ∈ m.map Prod.fst := by
            by_contra hno
            rw [(Memory.get?_eq_none_iff m b).2 hno] at h1
            exact Option.some_ne_none _ h1.symm
          exact absurd (hm.1 b this) (by omega)
      subst hab
      have hvw : v = w := by have := h a; simpa [Memory.get?] using this
      subst hvw
      congr 1
      refine ih (fun c => ?_) hm.2 hn.2
      by_cases hc : a = c
      · subst hc
        rw [(Memory.get?_eq_none_iff m a).2 fun hk => absurd (hm.1 a hk) (by omega),
          (Memory.get?_eq_none_iff n a).2 fun hk => absurd (hn.1 a hk) (by omega)]
      · have := h c
        simpa [Memory.get?, hc] using this

/-! ### Reading a byte of the state's surface -/

theorem cellByte_setCell (s : State) (c d : Nat) (v : Byte) :
    cellByte (setCell c v s) d = if d = c then v else cellByte s d := by
  unfold cellByte setCell
  simp only [Memory.get?_set]
  split <;> rfl

theorem cellByte_fillSurface (s : State) (v : Byte) {c : Nat} (hc : c < 256) : cellByte (fillSurface v s) c = v := by
  simp [cellByte, fillSurface, Memory.get?_fill v hc]

/-- A read depends only on the listed cells and on which reset the free bytes belong to. -/
theorem cellByte_congr {s t : State} (h : s.surface = t.surface) (hr : s.resets = t.resets) (c : Nat) :
    cellByte s c = cellByte t c := by
  simp [cellByte, h, hr]

theorem surfaceOf_congr {s t : State} (h : s.surface = t.surface) (hr : s.resets = t.resets) :
    surfaceOf s = surfaceOf t :=
  funext fun c => cellByte_congr h hr c.val

theorem surfaceOf_fillSurface (s : State) (v : Byte) : surfaceOf (fillSurface v s) = fun _ => v :=
  funext fun c => cellByte_fillSurface s v c.isLt

end Sys2Proof.Machine
end

