-- ==== Sys2Proof/Laws/PerInstr.lean ====
section
/-!
SUPPORT. Statements about every command as it is written, proved command by command: `OwnRow`, a command's word is of the
opcode row of that command (spec/30_encoding.md R73), for every operand, also one that does not fit its field.
-/

namespace Sys2Proof.Laws.OwnRow

/-- The word of the command matches the row of the command. -/
def Statement (i : Instr) : Prop := i.row.matches (encode i) = true

theorem setpixel (x y : Int) (on : Bool) : Statement (.setpixel x y on) := by
  refine (matches_setpixel_iff _).2 ?_
  rw [encode_setpixel_toNat]
  have hx := (BitVec.ofInt 12 x).isLt
  have hy := (BitVec.ofInt 12 y).isLt
  have := on.toNat_lt
  omega

theorem clear : Statement .clear := (matches_clear_iff _).2 (by decide)

theorem render : Statement .render := (matches_render_iff _).2 (by decide)

theorem setbright (level : Int) : Statement (.setbright level) := by
  refine (matches_setbright_iff _).2 ?_
  rw [encode_setbright_toNat]
  have := (BitVec.ofInt 16 level).isLt
  omega

theorem setrot (r : Bool) : Statement (.setrot r) := (matches_setrot_iff _).2 (by cases r <;> decide)

theorem dstep : Statement .dstep := (matches_dstep_iff _).2 (by decide)

end Sys2Proof.Laws.OwnRow
end

