-- ==== Sys2Proof/Laws/State.lean ====
section
/-!
SUPPORT. What each update of the state does to each field, one lemma a field, so that no proof unfolds a record update.
-/

namespace Sys2Proof.Machine

variable (s : State)

/-! ### `setCell` -/

@[simp] theorem setCell_surface (c : Nat) (v : Byte) : (setCell c v s).surface = s.surface.set c v := rfl
@[simp] theorem setCell_rot (c : Nat) (v : Byte) : (setCell c v s).rot = s.rot := rfl
@[simp] theorem setCell_level (c : Nat) (v : Byte) : (setCell c v s).level = s.level := rfl
@[simp] theorem setCell_duty (c : Nat) (v : Byte) : (setCell c v s).duty = s.duty := rfl
@[simp] theorem setCell_phase (c : Nat) (v : Byte) : (setCell c v s).phase = s.phase := rfl
@[simp] theorem setCell_pv (c : Nat) (v : Byte) : (setCell c v s).pv = s.pv := rfl
@[simp] theorem setCell_seq (c : Nat) (v : Byte) : (setCell c v s).seq = s.seq := rfl
@[simp] theorem setCell_data (c : Nat) (v : Byte) : (setCell c v s).data = s.data := rfl
@[simp] theorem setCell_clk (c : Nat) (v : Byte) : (setCell c v s).clk = s.clk := rfl
@[simp] theorem setCell_lat (c : Nat) (v : Byte) : (setCell c v s).lat = s.lat := rfl
@[simp] theorem setCell_cnt (c : Nat) (v : Byte) : (setCell c v s).cnt = s.cnt := rfl
@[simp] theorem setCell_sr (c : Nat) (v : Byte) : (setCell c v s).sr = s.sr := rfl
@[simp] theorem setCell_out (c : Nat) (v : Byte) : (setCell c v s).out = s.out := rfl
@[simp] theorem setCell_trace (c : Nat) (v : Byte) : (setCell c v s).trace = s.trace := rfl
@[simp] theorem setCell_commands (c : Nat) (v : Byte) : (setCell c v s).commands = s.commands := rfl
@[simp] theorem setCell_rstInputs (c : Nat) (v : Byte) : (setCell c v s).rstInputs = s.rstInputs := rfl
@[simp] theorem setCell_resets (c : Nat) (v : Byte) : (setCell c v s).resets = s.resets := rfl
@[simp] theorem setCell_draws (c : Nat) (v : Byte) : (setCell c v s).draws = s.draws := rfl

/-! ### `fillSurface` -/

@[simp] theorem fillSurface_surface (v : Byte) : (fillSurface v s).surface = Memory.fill v := rfl
@[simp] theorem fillSurface_rot (v : Byte) : (fillSurface v s).rot = s.rot := rfl
@[simp] theorem fillSurface_level (v : Byte) : (fillSurface v s).level = s.level := rfl
@[simp] theorem fillSurface_duty (v : Byte) : (fillSurface v s).duty = s.duty := rfl
@[simp] theorem fillSurface_phase (v : Byte) : (fillSurface v s).phase = s.phase := rfl
@[simp] theorem fillSurface_pv (v : Byte) : (fillSurface v s).pv = s.pv := rfl
@[simp] theorem fillSurface_seq (v : Byte) : (fillSurface v s).seq = s.seq := rfl
@[simp] theorem fillSurface_data (v : Byte) : (fillSurface v s).data = s.data := rfl
@[simp] theorem fillSurface_clk (v : Byte) : (fillSurface v s).clk = s.clk := rfl
@[simp] theorem fillSurface_lat (v : Byte) : (fillSurface v s).lat = s.lat := rfl
@[simp] theorem fillSurface_cnt (v : Byte) : (fillSurface v s).cnt = s.cnt := rfl
@[simp] theorem fillSurface_sr (v : Byte) : (fillSurface v s).sr = s.sr := rfl
@[simp] theorem fillSurface_out (v : Byte) : (fillSurface v s).out = s.out := rfl
@[simp] theorem fillSurface_trace (v : Byte) : (fillSurface v s).trace = s.trace := rfl
@[simp] theorem fillSurface_commands (v : Byte) : (fillSurface v s).commands = s.commands := rfl
@[simp] theorem fillSurface_rstInputs (v : Byte) : (fillSurface v s).rstInputs = s.rstInputs := rfl
@[simp] theorem fillSurface_resets (v : Byte) : (fillSurface v s).resets = s.resets := rfl
@[simp] theorem fillSurface_draws (v : Byte) : (fillSurface v s).draws = s.draws := rfl

/-! ### `setRot` -/

@[simp] theorem setRot_surface (r : Bool) : (setRot r s).surface = s.surface := rfl
@[simp] theorem setRot_rot (r : Bool) : (setRot r s).rot = r := rfl
@[simp] theorem setRot_level (r : Bool) : (setRot r s).level = s.level := rfl
@[simp] theorem setRot_duty (r : Bool) : (setRot r s).duty = s.duty := rfl
@[simp] theorem setRot_phase (r : Bool) : (setRot r s).phase = s.phase := rfl
@[simp] theorem setRot_pv (r : Bool) : (setRot r s).pv = s.pv := rfl
@[simp] theorem setRot_seq (r : Bool) : (setRot r s).seq = s.seq := rfl
@[simp] theorem setRot_data (r : Bool) : (setRot r s).data = s.data := rfl
@[simp] theorem setRot_clk (r : Bool) : (setRot r s).clk = s.clk := rfl
@[simp] theorem setRot_lat (r : Bool) : (setRot r s).lat = s.lat := rfl
@[simp] theorem setRot_cnt (r : Bool) : (setRot r s).cnt = s.cnt := rfl
@[simp] theorem setRot_sr (r : Bool) : (setRot r s).sr = s.sr := rfl
@[simp] theorem setRot_out (r : Bool) : (setRot r s).out = s.out := rfl
@[simp] theorem setRot_trace (r : Bool) : (setRot r s).trace = s.trace := rfl
@[simp] theorem setRot_commands (r : Bool) : (setRot r s).commands = s.commands := rfl
@[simp] theorem setRot_rstInputs (r : Bool) : (setRot r s).rstInputs = s.rstInputs := rfl
@[simp] theorem setRot_resets (r : Bool) : (setRot r s).resets = s.resets := rfl
@[simp] theorem setRot_draws (r : Bool) : (setRot r s).draws = s.draws := rfl

/-! ### `setBrightness` -/

@[simp] theorem setBrightness_surface (l d : Byte) : (setBrightness l d s).surface = s.surface := rfl
@[simp] theorem setBrightness_rot (l d : Byte) : (setBrightness l d s).rot = s.rot := rfl
@[simp] theorem setBrightness_level (l d : Byte) : (setBrightness l d s).level = l := rfl
@[simp] theorem setBrightness_duty (l d : Byte) : (setBrightness l d s).duty = d := rfl
@[simp] theorem setBrightness_phase (l d : Byte) : (setBrightness l d s).phase = s.phase := rfl
@[simp] theorem setBrightness_pv (l d : Byte) : (setBrightness l d s).pv = s.pv := rfl
@[simp] theorem setBrightness_seq (l d : Byte) : (setBrightness l d s).seq = s.seq := rfl
@[simp] theorem setBrightness_data (l d : Byte) : (setBrightness l d s).data = s.data := rfl
@[simp] theorem setBrightness_clk (l d : Byte) : (setBrightness l d s).clk = s.clk := rfl
@[simp] theorem setBrightness_lat (l d : Byte) : (setBrightness l d s).lat = s.lat := rfl
@[simp] theorem setBrightness_cnt (l d : Byte) : (setBrightness l d s).cnt = s.cnt := rfl
@[simp] theorem setBrightness_sr (l d : Byte) : (setBrightness l d s).sr = s.sr := rfl
@[simp] theorem setBrightness_out (l d : Byte) : (setBrightness l d s).out = s.out := rfl
@[simp] theorem setBrightness_trace (l d : Byte) : (setBrightness l d s).trace = s.trace := rfl
@[simp] theorem setBrightness_commands (l d : Byte) : (setBrightness l d s).commands = s.commands := rfl
@[simp] theorem setBrightness_rstInputs (l d : Byte) : (setBrightness l d s).rstInputs = s.rstInputs := rfl
@[simp] theorem setBrightness_resets (l d : Byte) : (setBrightness l d s).resets = s.resets := rfl
@[simp] theorem setBrightness_draws (l d : Byte) : (setBrightness l d s).draws = s.draws := rfl

/-! ### `setPhase` -/

@[simp] theorem setPhase_surface (p : BitVec 2) : (setPhase p s).surface = s.surface := rfl
@[simp] theorem setPhase_rot (p : BitVec 2) : (setPhase p s).rot = s.rot := rfl
@[simp] theorem setPhase_level (p : BitVec 2) : (setPhase p s).level = s.level := rfl
@[simp] theorem setPhase_duty (p : BitVec 2) : (setPhase p s).duty = s.duty := rfl
@[simp] theorem setPhase_phase (p : BitVec 2) : (setPhase p s).phase = p := rfl
@[simp] theorem setPhase_pv (p : BitVec 2) : (setPhase p s).pv = s.pv := rfl
@[simp] theorem setPhase_seq (p : BitVec 2) : (setPhase p s).seq = s.seq := rfl
@[simp] theorem setPhase_data (p : BitVec 2) : (setPhase p s).data = s.data := rfl
@[simp] theorem setPhase_clk (p : BitVec 2) : (setPhase p s).clk = s.clk := rfl
@[simp] theorem setPhase_lat (p : BitVec 2) : (setPhase p s).lat = s.lat := rfl
@[simp] theorem setPhase_cnt (p : BitVec 2) : (setPhase p s).cnt = s.cnt := rfl
@[simp] theorem setPhase_sr (p : BitVec 2) : (setPhase p s).sr = s.sr := rfl
@[simp] theorem setPhase_out (p : BitVec 2) : (setPhase p s).out = s.out := rfl
@[simp] theorem setPhase_trace (p : BitVec 2) : (setPhase p s).trace = s.trace := rfl
@[simp] theorem setPhase_commands (p : BitVec 2) : (setPhase p s).commands = s.commands := rfl
@[simp] theorem setPhase_rstInputs (p : BitVec 2) : (setPhase p s).rstInputs = s.rstInputs := rfl
@[simp] theorem setPhase_resets (p : BitVec 2) : (setPhase p s).resets = s.resets := rfl
@[simp] theorem setPhase_draws (p : BitVec 2) : (setPhase p s).draws = s.draws := rfl

/-! ### `setPv` -/

@[simp] theorem setPv_surface (v : Row) : (setPv v s).surface = s.surface := rfl
@[simp] theorem setPv_rot (v : Row) : (setPv v s).rot = s.rot := rfl
@[simp] theorem setPv_level (v : Row) : (setPv v s).level = s.level := rfl
@[simp] theorem setPv_duty (v : Row) : (setPv v s).duty = s.duty := rfl
@[simp] theorem setPv_phase (v : Row) : (setPv v s).phase = s.phase := rfl
@[simp] theorem setPv_pv (v : Row) : (setPv v s).pv = v := rfl
@[simp] theorem setPv_seq (v : Row) : (setPv v s).seq = s.seq := rfl
@[simp] theorem setPv_data (v : Row) : (setPv v s).data = s.data := rfl
@[simp] theorem setPv_clk (v : Row) : (setPv v s).clk = s.clk := rfl
@[simp] theorem setPv_lat (v : Row) : (setPv v s).lat = s.lat := rfl
@[simp] theorem setPv_cnt (v : Row) : (setPv v s).cnt = s.cnt := rfl
@[simp] theorem setPv_sr (v : Row) : (setPv v s).sr = s.sr := rfl
@[simp] theorem setPv_out (v : Row) : (setPv v s).out = s.out := rfl
@[simp] theorem setPv_trace (v : Row) : (setPv v s).trace = s.trace := rfl
@[simp] theorem setPv_commands (v : Row) : (setPv v s).commands = s.commands := rfl
@[simp] theorem setPv_rstInputs (v : Row) : (setPv v s).rstInputs = s.rstInputs := rfl
@[simp] theorem setPv_resets (v : Row) : (setPv v s).resets = s.resets := rfl
@[simp] theorem setPv_draws (v : Row) : (setPv v s).draws = s.draws := rfl

/-! ### `setSeq` -/

@[simp] theorem setSeq_surface (q : Seq) : (setSeq q s).surface = s.surface := rfl
@[simp] theorem setSeq_rot (q : Seq) : (setSeq q s).rot = s.rot := rfl
@[simp] theorem setSeq_level (q : Seq) : (setSeq q s).level = s.level := rfl
@[simp] theorem setSeq_duty (q : Seq) : (setSeq q s).duty = s.duty := rfl
@[simp] theorem setSeq_phase (q : Seq) : (setSeq q s).phase = s.phase := rfl
@[simp] theorem setSeq_pv (q : Seq) : (setSeq q s).pv = s.pv := rfl
@[simp] theorem setSeq_seq (q : Seq) : (setSeq q s).seq = q := rfl
@[simp] theorem setSeq_data (q : Seq) : (setSeq q s).data = s.data := rfl
@[simp] theorem setSeq_clk (q : Seq) : (setSeq q s).clk = s.clk := rfl
@[simp] theorem setSeq_lat (q : Seq) : (setSeq q s).lat = s.lat := rfl
@[simp] theorem setSeq_cnt (q : Seq) : (setSeq q s).cnt = s.cnt := rfl
@[simp] theorem setSeq_sr (q : Seq) : (setSeq q s).sr = s.sr := rfl
@[simp] theorem setSeq_out (q : Seq) : (setSeq q s).out = s.out := rfl
@[simp] theorem setSeq_trace (q : Seq) : (setSeq q s).trace = s.trace := rfl
@[simp] theorem setSeq_commands (q : Seq) : (setSeq q s).commands = s.commands := rfl
@[simp] theorem setSeq_rstInputs (q : Seq) : (setSeq q s).rstInputs = s.rstInputs := rfl
@[simp] theorem setSeq_resets (q : Seq) : (setSeq q s).resets = s.resets := rfl
@[simp] theorem setSeq_draws (q : Seq) : (setSeq q s).draws = s.draws := rfl

/-! ### `record` -/

@[simp] theorem record_surface (e : Event) : (record e s).surface = s.surface := rfl
@[simp] theorem record_rot (e : Event) : (record e s).rot = s.rot := rfl
@[simp] theorem record_level (e : Event) : (record e s).level = s.level := rfl
@[simp] theorem record_duty (e : Event) : (record e s).duty = s.duty := rfl
@[simp] theorem record_phase (e : Event) : (record e s).phase = s.phase := rfl
@[simp] theorem record_pv (e : Event) : (record e s).pv = s.pv := rfl
@[simp] theorem record_seq (e : Event) : (record e s).seq = s.seq := rfl
@[simp] theorem record_data (e : Event) : (record e s).data = s.data := rfl
@[simp] theorem record_clk (e : Event) : (record e s).clk = s.clk := rfl
@[simp] theorem record_lat (e : Event) : (record e s).lat = s.lat := rfl
@[simp] theorem record_cnt (e : Event) : (record e s).cnt = s.cnt := rfl
@[simp] theorem record_sr (e : Event) : (record e s).sr = s.sr := rfl
@[simp] theorem record_out (e : Event) : (record e s).out = s.out := rfl
@[simp] theorem record_trace (e : Event) : (record e s).trace = s.trace ++ [e] := rfl
@[simp] theorem record_commands (e : Event) : (record e s).commands = s.commands := rfl
@[simp] theorem record_rstInputs (e : Event) : (record e s).rstInputs = s.rstInputs := rfl
@[simp] theorem record_resets (e : Event) : (record e s).resets = s.resets := rfl
@[simp] theorem record_draws (e : Event) : (record e s).draws = s.draws := rfl

/-! ### `hostNext` -/

@[simp] theorem hostNext_surface : (hostNext s).surface = s.surface := rfl
@[simp] theorem hostNext_rot : (hostNext s).rot = s.rot := rfl
@[simp] theorem hostNext_level : (hostNext s).level = s.level := rfl
@[simp] theorem hostNext_duty : (hostNext s).duty = s.duty := rfl
@[simp] theorem hostNext_phase : (hostNext s).phase = s.phase := rfl
@[simp] theorem hostNext_pv : (hostNext s).pv = s.pv := rfl
@[simp] theorem hostNext_seq : (hostNext s).seq = s.seq := rfl
@[simp] theorem hostNext_data : (hostNext s).data = s.data := rfl
@[simp] theorem hostNext_clk : (hostNext s).clk = s.clk := rfl
@[simp] theorem hostNext_lat : (hostNext s).lat = s.lat := rfl
@[simp] theorem hostNext_cnt : (hostNext s).cnt = s.cnt := rfl
@[simp] theorem hostNext_sr : (hostNext s).sr = s.sr := rfl
@[simp] theorem hostNext_out : (hostNext s).out = s.out := rfl
@[simp] theorem hostNext_trace : (hostNext s).trace = s.trace := rfl
@[simp] theorem hostNext_commands : (hostNext s).commands = s.commands.next := rfl
@[simp] theorem hostNext_rstInputs : (hostNext s).rstInputs = s.rstInputs.next := rfl
@[simp] theorem hostNext_resets : (hostNext s).resets = s.resets := rfl
@[simp] theorem hostNext_draws : (hostNext s).draws = s.draws := rfl

/-! ### `hostKeep` -/

@[simp] theorem hostKeep_surface : (hostKeep s).surface = s.surface := rfl
@[simp] theorem hostKeep_rot : (hostKeep s).rot = s.rot := rfl
@[simp] theorem hostKeep_level : (hostKeep s).level = s.level := rfl
@[simp] theorem hostKeep_duty : (hostKeep s).duty = s.duty := rfl
@[simp] theorem hostKeep_phase : (hostKeep s).phase = s.phase := rfl
@[simp] theorem hostKeep_pv : (hostKeep s).pv = s.pv := rfl
@[simp] theorem hostKeep_seq : (hostKeep s).seq = s.seq := rfl
@[simp] theorem hostKeep_data : (hostKeep s).data = s.data := rfl
@[simp] theorem hostKeep_clk : (hostKeep s).clk = s.clk := rfl
@[simp] theorem hostKeep_lat : (hostKeep s).lat = s.lat := rfl
@[simp] theorem hostKeep_cnt : (hostKeep s).cnt = s.cnt := rfl
@[simp] theorem hostKeep_sr : (hostKeep s).sr = s.sr := rfl
@[simp] theorem hostKeep_out : (hostKeep s).out = s.out := rfl
@[simp] theorem hostKeep_trace : (hostKeep s).trace = s.trace := rfl
@[simp] theorem hostKeep_commands : (hostKeep s).commands = s.commands := rfl
@[simp] theorem hostKeep_rstInputs : (hostKeep s).rstInputs = s.rstInputs.next := rfl
@[simp] theorem hostKeep_resets : (hostKeep s).resets = s.resets := rfl
@[simp] theorem hostKeep_draws : (hostKeep s).draws = s.draws := rfl

/-! ### `freeRun` -/

@[simp] theorem freeRun_surface : (freeRun s).surface = s.surface := rfl
@[simp] theorem freeRun_rot : (freeRun s).rot = s.rot := rfl
@[simp] theorem freeRun_level : (freeRun s).level = s.level := rfl
@[simp] theorem freeRun_duty : (freeRun s).duty = s.duty := rfl
@[simp] theorem freeRun_phase : (freeRun s).phase = s.phase := rfl
@[simp] theorem freeRun_pv : (freeRun s).pv = s.pv := rfl
@[simp] theorem freeRun_seq : (freeRun s).seq = s.seq := rfl
@[simp] theorem freeRun_data : (freeRun s).data = s.data := rfl
@[simp] theorem freeRun_clk : (freeRun s).clk = s.clk := rfl
@[simp] theorem freeRun_lat : (freeRun s).lat = s.lat := rfl
@[simp] theorem freeRun_cnt : (freeRun s).cnt = cntAfter Config.pwmPeriod (Config.pwmTicks s.draws) s.cnt := rfl
@[simp] theorem freeRun_sr : (freeRun s).sr = s.sr := rfl
@[simp] theorem freeRun_out : (freeRun s).out = s.out := rfl
@[simp] theorem freeRun_trace : (freeRun s).trace = s.trace := rfl
@[simp] theorem freeRun_commands : (freeRun s).commands = s.commands := rfl
@[simp] theorem freeRun_rstInputs : (freeRun s).rstInputs = s.rstInputs := rfl
@[simp] theorem freeRun_resets : (freeRun s).resets = s.resets := rfl
@[simp] theorem freeRun_draws : (freeRun s).draws = s.draws + 1 := rfl

/-! ### `pwmTick` -/

@[simp] theorem pwmTick_surface : (pwmTick s).surface = s.surface := rfl
@[simp] theorem pwmTick_rot : (pwmTick s).rot = s.rot := rfl
@[simp] theorem pwmTick_level : (pwmTick s).level = s.level := rfl
@[simp] theorem pwmTick_duty : (pwmTick s).duty = s.duty := rfl
@[simp] theorem pwmTick_phase : (pwmTick s).phase = s.phase := rfl
@[simp] theorem pwmTick_pv : (pwmTick s).pv = s.pv := rfl
@[simp] theorem pwmTick_seq : (pwmTick s).seq = s.seq := rfl
@[simp] theorem pwmTick_data : (pwmTick s).data = s.data := rfl
@[simp] theorem pwmTick_clk : (pwmTick s).clk = s.clk := rfl
@[simp] theorem pwmTick_lat : (pwmTick s).lat = s.lat := rfl
@[simp] theorem pwmTick_cnt : (pwmTick s).cnt = cntNext Config.pwmPeriod s.cnt := rfl
@[simp] theorem pwmTick_sr : (pwmTick s).sr = s.sr := rfl
@[simp] theorem pwmTick_out : (pwmTick s).out = s.out := rfl
@[simp] theorem pwmTick_trace : (pwmTick s).trace = s.trace := rfl
@[simp] theorem pwmTick_commands : (pwmTick s).commands = s.commands := rfl
@[simp] theorem pwmTick_rstInputs : (pwmTick s).rstInputs = s.rstInputs := rfl
@[simp] theorem pwmTick_resets : (pwmTick s).resets = s.resets := rfl
@[simp] theorem pwmTick_draws : (pwmTick s).draws = s.draws := rfl

/-! ### `present` -/

@[simp] theorem present_surface (w : Word) : (present w s).surface = s.surface := rfl
@[simp] theorem present_rot (w : Word) : (present w s).rot = s.rot := rfl
@[simp] theorem present_level (w : Word) : (present w s).level = s.level := rfl
@[simp] theorem present_duty (w : Word) : (present w s).duty = s.duty := rfl
@[simp] theorem present_phase (w : Word) : (present w s).phase = s.phase := rfl
@[simp] theorem present_pv (w : Word) : (present w s).pv = s.pv := rfl
@[simp] theorem present_seq (w : Word) : (present w s).seq = .idle := rfl
@[simp] theorem present_data (w : Word) : (present w s).data = s.data := rfl
@[simp] theorem present_clk (w : Word) : (present w s).clk = s.clk := rfl
@[simp] theorem present_lat (w : Word) : (present w s).lat = s.lat := rfl
@[simp] theorem present_cnt (w : Word) : (present w s).cnt = s.cnt := rfl
@[simp] theorem present_sr (w : Word) : (present w s).sr = s.sr := rfl
@[simp] theorem present_out (w : Word) : (present w s).out = s.out := rfl
@[simp] theorem present_trace (w : Word) : (present w s).trace = s.trace := rfl
@[simp] theorem present_commands (w : Word) : (present w s).commands = s.commands.push (some w) := rfl
@[simp] theorem present_rstInputs (w : Word) : (present w s).rstInputs = s.rstInputs.push .low := rfl
@[simp] theorem present_resets (w : Word) : (present w s).resets = s.resets := rfl
@[simp] theorem present_draws (w : Word) : (present w s).draws = s.draws := rfl

/-! ### `drive .data` -/

@[simp] theorem drive_data_surface (b : Bool) : (drive .data b s).surface = s.surface := rfl
@[simp] theorem drive_data_rot (b : Bool) : (drive .data b s).rot = s.rot := rfl
@[simp] theorem drive_data_level (b : Bool) : (drive .data b s).level = s.level := rfl
@[simp] theorem drive_data_duty (b : Bool) : (drive .data b s).duty = s.duty := rfl
@[simp] theorem drive_data_phase (b : Bool) : (drive .data b s).phase = s.phase := rfl
@[simp] theorem drive_data_pv (b : Bool) : (drive .data b s).pv = s.pv := rfl
@[simp] theorem drive_data_seq (b : Bool) : (drive .data b s).seq = s.seq := rfl
@[simp] theorem drive_data_data (b : Bool) : (drive .data b s).data = b := rfl
@[simp] theorem drive_data_clk (b : Bool) : (drive .data b s).clk = s.clk := rfl
@[simp] theorem drive_data_lat (b : Bool) : (drive .data b s).lat = s.lat := rfl
@[simp] theorem drive_data_cnt (b : Bool) : (drive .data b s).cnt = s.cnt := rfl
@[simp] theorem drive_data_sr (b : Bool) : (drive .data b s).sr = s.sr := rfl
@[simp] theorem drive_data_out (b : Bool) : (drive .data b s).out = s.out := rfl
@[simp] theorem drive_data_trace (b : Bool) : (drive .data b s).trace = s.trace ++ [(.data, b)] := rfl
@[simp] theorem drive_data_commands (b : Bool) : (drive .data b s).commands = s.commands := rfl
@[simp] theorem drive_data_rstInputs (b : Bool) : (drive .data b s).rstInputs = s.rstInputs := rfl
@[simp] theorem drive_data_resets (b : Bool) : (drive .data b s).resets = s.resets := rfl
@[simp] theorem drive_data_draws (b : Bool) : (drive .data b s).draws = s.draws := rfl

/-! ### `drive .clk` -/

@[simp] theorem drive_clk_surface (b : Bool) : (drive .clk b s).surface = s.surface := rfl
@[simp] theorem drive_clk_rot (b : Bool) : (drive .clk b s).rot = s.rot := rfl
@[simp] theorem drive_clk_level (b : Bool) : (drive .clk b s).level = s.level := rfl
@[simp] theorem drive_clk_duty (b : Bool) : (drive .clk b s).duty = s.duty := rfl
@[simp] theorem drive_clk_phase (b : Bool) : (drive .clk b s).phase = s.phase := rfl
@[simp] theorem drive_clk_pv (b : Bool) : (drive .clk b s).pv = s.pv := rfl
@[simp] theorem drive_clk_seq (b : Bool) : (drive .clk b s).seq = s.seq := rfl
@[simp] theorem drive_clk_data (b : Bool) : (drive .clk b s).data = s.data := rfl
@[simp] theorem drive_clk_clk (b : Bool) : (drive .clk b s).clk = b := rfl
@[simp] theorem drive_clk_lat (b : Bool) : (drive .clk b s).lat = s.lat := rfl
@[simp] theorem drive_clk_cnt (b : Bool) : (drive .clk b s).cnt = s.cnt := rfl
@[simp] theorem drive_clk_sr (b : Bool) : (drive .clk b s).sr = if b && !s.clk then shiftIn s.sr s.data else s.sr := rfl
@[simp] theorem drive_clk_out (b : Bool) : (drive .clk b s).out = s.out := rfl
@[simp] theorem drive_clk_trace (b : Bool) : (drive .clk b s).trace = s.trace ++ [(.clk, b)] := rfl
@[simp] theorem drive_clk_commands (b : Bool) : (drive .clk b s).commands = s.commands := rfl
@[simp] theorem drive_clk_rstInputs (b : Bool) : (drive .clk b s).rstInputs = s.rstInputs := rfl
@[simp] theorem drive_clk_resets (b : Bool) : (drive .clk b s).resets = s.resets := rfl
@[simp] theorem drive_clk_draws (b : Bool) : (drive .clk b s).draws = s.draws := rfl

/-! ### `drive .lat` -/

@[simp] theorem drive_lat_surface (b : Bool) : (drive .lat b s).surface = s.surface := rfl
@[simp] theorem drive_lat_rot (b : Bool) : (drive .lat b s).rot = s.rot := rfl
@[simp] theorem drive_lat_level (b : Bool) : (drive .lat b s).level = s.level := rfl
@[simp] theorem drive_lat_duty (b : Bool) : (drive .lat b s).duty = s.duty := rfl
@[simp] theorem drive_lat_phase (b : Bool) : (drive .lat b s).phase = s.phase := rfl
@[simp] theorem drive_lat_pv (b : Bool) : (drive .lat b s).pv = s.pv := rfl
@[simp] theorem drive_lat_seq (b : Bool) : (drive .lat b s).seq = s.seq := rfl
@[simp] theorem drive_lat_data (b : Bool) : (drive .lat b s).data = s.data := rfl
@[simp] theorem drive_lat_clk (b : Bool) : (drive .lat b s).clk = s.clk := rfl
@[simp] theorem drive_lat_lat (b : Bool) : (drive .lat b s).lat = b := rfl
@[simp] theorem drive_lat_cnt (b : Bool) : (drive .lat b s).cnt = s.cnt := rfl
@[simp] theorem drive_lat_sr (b : Bool) : (drive .lat b s).sr = s.sr := rfl
@[simp] theorem drive_lat_out (b : Bool) : (drive .lat b s).out = if b && !s.lat then s.sr else s.out := rfl
@[simp] theorem drive_lat_trace (b : Bool) : (drive .lat b s).trace = s.trace ++ [(.lat, b)] := rfl
@[simp] theorem drive_lat_commands (b : Bool) : (drive .lat b s).commands = s.commands := rfl
@[simp] theorem drive_lat_rstInputs (b : Bool) : (drive .lat b s).rstInputs = s.rstInputs := rfl
@[simp] theorem drive_lat_resets (b : Bool) : (drive .lat b s).resets = s.resets := rfl
@[simp] theorem drive_lat_draws (b : Bool) : (drive .lat b s).draws = s.draws := rfl

/-! ### `takeReset` -/

@[simp] theorem takeReset_surface : (takeReset s).surface = [] := rfl
@[simp] theorem takeReset_rot : (takeReset s).rot = false := rfl
@[simp] theorem takeReset_level : (takeReset s).level = Config.resetLevel (s.resets + 1) := rfl
@[simp] theorem takeReset_duty : (takeReset s).duty = Config.resetDuty (s.resets + 1) := rfl
@[simp] theorem takeReset_phase : (takeReset s).phase = 0#2 := rfl
@[simp] theorem takeReset_pv : (takeReset s).pv = Config.resetPv (s.resets + 1) := rfl
@[simp] theorem takeReset_seq : (takeReset s).seq = .idle := rfl
@[simp] theorem takeReset_data : (takeReset s).data = false := rfl
@[simp] theorem takeReset_clk : (takeReset s).clk = false := rfl
@[simp] theorem takeReset_lat : (takeReset s).lat = false := rfl
@[simp] theorem takeReset_cnt : (takeReset s).cnt = BitVec.ofNat 8 (Config.resetCnt (s.resets + 1) % Config.pwmPeriod) := rfl
@[simp] theorem takeReset_sr : (takeReset s).sr = Config.resetSr (s.resets + 1) := rfl
@[simp] theorem takeReset_out : (takeReset s).out = Config.resetOut (s.resets + 1) := rfl
@[simp] theorem takeReset_trace : (takeReset s).trace = [] := rfl
@[simp] theorem takeReset_commands : (takeReset s).commands = s.commands := rfl
@[simp] theorem takeReset_rstInputs : (takeReset s).rstInputs = s.rstInputs := rfl
@[simp] theorem takeReset_resets : (takeReset s).resets = s.resets + 1 := rfl
@[simp] theorem takeReset_draws : (takeReset s).draws = s.draws := rfl

end Sys2Proof.Machine
end

