-- ==== Sys2Proof/Laws/Step.lean ====
section
/-!
SUPPORT. What each command, each step of the sequencer and each step of the machine can do, said once; proofs cite these and
do not unfold `exec`, `seqStep` or `step`.
-/

namespace Sys2Proof.Machine

/-! ### Commands -/

theorem exec_setpixel (x y : Int) (on : Bool) (s : State) :
    exec (.setpixel x y on) s =
      .next (match pixelCell? s.rot x y with
        | some c => setCell c (pixelByte on s.level) s
        | none => s) := by
  show execSetpixel x y on s = _
  unfold execSetpixel
  cases pixelCell? s.rot x y <;> rfl

theorem exec_clear (s : State) : exec .clear s = .next (fillSurface 0#8 s) := rfl

theorem exec_render (s : State) : exec .render s = .next (setSeq .build s) := rfl

theorem exec_setbright (level : Int) (s : State) :
    exec (.setbright level) s = .next (setBrightness (levelByte level) (dutyByte level) s) := rfl

theorem exec_setrot (r : Bool) (s : State) : exec (.setrot r) s = .next (setRot r s) := rfl

theorem exec_dstep (s : State) : exec .dstep s = .next (setPhase (s.phase + 1#2) s) := rfl

/-- The cell that a SETPIXEL writes is a cell of the surface. -/
theorem pixelCell?_lt {rot : Bool} {x y : Int} {c : Nat} (h : pixelCell? rot x y = some c) : c < 256 := by
  unfold pixelCell? coordInRange cellIndex rotateCoord at h
  split at h
  · rename_i hb
    simp only [Bool.and_eq_true, decide_eq_true_eq] at hb
    simp only [Option.some.injEq] at h
    cases rot <;> simp only [if_true, if_false, Bool.false_eq_true] at h <;> omega
  · cases h

/-! ### The sequencer -/

theorem seqStep_idle {s : State} (h : s.seq = .idle) : seqStep s = s := by
  show setSeq s.seq.after (seqAct Config.hwmap s) = s
  unfold seqAct
  rw [h]
  cases s
  simp_all [setSeq, Seq.after]

theorem seqStep_build {s : State} (h : s.seq = .build) :
    seqStep s = setSeq (.shift 0 .dataSet) (setPv (buildVector Config.hwmap (surfaceOf s)) s) := by
  unfold seqStep seqStepWith seqAct; rw [h]; rfl

theorem seqStep_dataSet {s : State} {i : Index} (h : s.seq = .shift i .dataSet) :
    seqStep s = setSeq (.shift i .clkHigh) (drive .data (s.pv.getLsbD i.val) s) := by
  unfold seqStep seqStepWith seqAct; rw [h]; rfl

theorem seqStep_clkHigh {s : State} {i : Index} (h : s.seq = .shift i .clkHigh) :
    seqStep s = setSeq (.shift i .clkLow) (drive .clk true s) := by
  unfold seqStep seqStepWith seqAct; rw [h]; rfl

theorem seqStep_clkLow {s : State} {i : Index} (h : s.seq = .shift i .clkLow) :
    seqStep s = setSeq (Seq.after (.shift i .clkLow)) (drive .clk false s) := by
  unfold seqStep seqStepWith seqAct; rw [h]

theorem seqStep_latHigh {s : State} (h : s.seq = .latch .latHigh) :
    seqStep s = setSeq (.latch .latLow) (drive .lat true s) := by
  unfold seqStep seqStepWith seqAct; rw [h]; rfl

theorem seqStep_latLow {s : State} (h : s.seq = .latch .latLow) :
    seqStep s = setSeq .idle (drive .lat false s) := by
  unfold seqStep seqStepWith seqAct; rw [h]; rfl

theorem seqStep_seq (s : State) : (seqStep s).seq = s.seq.after := rfl

/-! ### Steps of the machine -/

theorem cmdReady_iff (s : State) : s.cmdReady = true ↔ s.seq = .idle := by
  simp [State.cmdReady, State.busy]

theorem step_reset {s : State} (h : s.rstPin = true) : step s = .next (takeReset (hostReset s)) := by
  simp [step, portStep, h]

theorem step_accept {s : State} {w : Word} (h : Accepts s w) : step s = accept w s := by
  obtain ⟨h1, h2, h3⟩ := h
  simp [step, portStep, h1, h2, h3]

theorem step_runOn {s : State} (h : s.rstPin = false) (h' : s.cmdReady = false ∨ s.cmdWord? = none) :
    step s = .next (freeRun (seqStep (hostHold s))) := by
  rcases h' with h' | h'
  · simp [step, portStep, h, h', runOn, withFreeRun]
  · simp only [step, portStep, h, h', Bool.false_eq_true, if_false]
    split <;> rfl

theorem accept_command {s : State} {w : Word} {i : Instr} (h : decode w = .ok i) :
    accept w s = withFreeRun (exec i (hostNext s)) := by
  simp [accept, h]

theorem accept_reserved {s : State} {w : Word} {r : Reserved} (h : decode w = .error r) :
    accept w s = .next (freeRun (hostNext s)) := by
  simp [accept, h, withFreeRun]

/-- Everything one step can do: reset, perform an accepted command, ignore an accepted reserved word, or run on. -/
theorem step_cases (s : State) :
    (s.rstPin = true ∧ step s = .next (takeReset (hostReset s))) ∨
    (∃ w i t, Accepts s w ∧ decode w = .ok i ∧ exec i (hostNext s) = .next t ∧ step s = .next (freeRun t)) ∨
    (∃ w r, Accepts s w ∧ decode w = .error r ∧ step s = .next (freeRun (hostNext s))) ∨
    (s.rstPin = false ∧ (s.cmdReady = false ∨ s.cmdWord? = none) ∧ step s = .next (freeRun (seqStep (hostHold s)))) := by
  cases hr : s.rstPin with
  | true => exact .inl ⟨rfl, step_reset hr⟩
  | false =>
    refine .inr ?_
    cases hb : s.cmdReady with
    | false => exact .inr (.inr ⟨rfl, .inl rfl, step_runOn hr (.inl hb)⟩)
    | true =>
      cases hw : s.cmdWord? with
      | none => exact .inr (.inr ⟨rfl, .inr rfl, step_runOn hr (.inr hw)⟩)
      | some w =>
        have ha : Accepts s w := ⟨hr, hb, hw⟩
        cases hd : decode w with
        | error r => exact .inr (.inl ⟨w, r, ha, hd, by rw [step_accept ha, accept_reserved hd]⟩)
        | ok i =>
          refine .inl ⟨w, i, ?_⟩
          obtain ⟨t, ht⟩ : ∃ t, exec i (hostNext s) = .next t := by
            cases i
            · exact ⟨_, exec_setpixel ..⟩
            all_goals exact ⟨_, rfl⟩
          exact ⟨t, ha, hd, ht, by rw [step_accept ha, accept_command hd, ht]; rfl⟩

@[simp] theorem runSteps_zero (s : State) : runSteps 0 s = .next s := rfl

theorem runSteps_succ {s t : State} (n : Nat) (h : step s = .next t) : runSteps (n + 1) s = runSteps n t := by
  have hs : Sys2Proof.core.step s = .next t := h
  simp only [runSteps, Host.Core.run, hs]
  rfl

/-- A run of any length goes on to its end. -/
theorem runSteps_next (n : Nat) (s : State) : ∃ t, runSteps n s = .next t := by
  induction n generalizing s with
  | zero => exact ⟨s, rfl⟩
  | succ n ih =>
    have hs : ∃ t, step s = .next t := by
      rcases step_cases s with ⟨_, h⟩ | ⟨_, _, t, _, _, _, h⟩ | ⟨_, _, _, _, h⟩ | ⟨_, _, h⟩ <;> exact ⟨_, h⟩
    obtain ⟨t, ht⟩ := hs
    rw [runSteps_succ n ht]
    exact ih t

end Sys2Proof.Machine
end

