-- ==== Sys2Proof/Laws/Render.lean ====
section
/-!
SUPPORT. The small lemmas of the vectors, of the sequencer and of the PWM counter: one bit of each vector operation, one
shift step, what a step of the sequencer leaves alone, and what one tick makes of the counter.
-/

namespace Sys2Proof.Machine

/-! ### Bits of the vectors -/

/-- Two vectors are equal when their 256 bits are. -/
theorem Row.ext_index {u v : Row} (h : ∀ q : Index, u.getLsbD q.val = v.getLsbD q.val) : u = v :=
  BitVec.eq_of_getLsbD_eq fun i hi => h ⟨i, hi⟩

theorem buildVector_bit (hwmap : Equiv.Perm Index) (surf : Index → Byte) (p : Index) :
    (buildVector hwmap surf).getLsbD p.val = (surf (hwmap.symm p) != 0#8) := by
  rw [buildVector, BitVec.getLsbD_eq_getElem p.isLt, BitVec.getElem_ofFnLE]

theorem setBit_bit (v : Row) (p q : Index) (b : Bool) :
    (setBit v p b).getLsbD q.val = if q = p then b else v.getLsbD q.val := by
  rw [setBit, BitVec.getLsbD_eq_getElem q.isLt, BitVec.getElem_ofFnLE]

theorem shiftIn_bit (sr : Row) (d : Bool) {k : Nat} (hk : k < 256) :
    (shiftIn sr d).getLsbD k = if k = 0 then d else sr.getLsbD (k - 1) := by
  rw [shiftIn, BitVec.getLsbD_shiftConcat]
  simp [hk]

/-! ### The shift steps -/

theorem shiftBits_zero (s : State) : shiftBits 0 s = s := rfl

theorem shiftBits_succ (s : State) {j : Nat} (hj : j < 256) :
    shiftBits (j + 1) s = shiftBit (shiftBits j s) ⟨j, hj⟩ := by
  have : (List.finRange 256).take (j + 1) = (List.finRange 256).take j ++ [⟨j, hj⟩] := by
    rw [List.take_add_one]
    congr 1
    rw [List.getElem?_eq_getElem (by simp; omega)]; simp
  rw [shiftBits, this, List.foldl_append]; rfl

/-- What one shift step leaves alone, and the level it leaves on `DATA` and `CLK`. -/
theorem shiftBit_frame (s : State) (i : Index) :
    (shiftBit s i).surface = s.surface ∧ (shiftBit s i).resets = s.resets ∧ (shiftBit s i).rot = s.rot ∧
    (shiftBit s i).level = s.level ∧ (shiftBit s i).duty = s.duty ∧ (shiftBit s i).phase = s.phase ∧
    (shiftBit s i).pv = s.pv ∧ (shiftBit s i).seq = s.seq ∧ (shiftBit s i).data = s.pv.getLsbD i.val ∧
    (shiftBit s i).clk = false ∧ (shiftBit s i).lat = s.lat ∧ (shiftBit s i).out = s.out ∧
    (shiftBit s i).cnt = s.cnt ∧ (shiftBit s i).commands = s.commands ∧
    (shiftBit s i).rstInputs = s.rstInputs ∧ (shiftBit s i).draws = s.draws := by
  simp [shiftBit, pulse]

/-- What one shift step does to the chain, when it finds `CLK` low. -/
theorem shiftBit_sr {s : State} (i : Index) (h : s.clk = false) :
    (shiftBit s i).sr = shiftIn s.sr (s.pv.getLsbD i.val) := by
  simp [shiftBit, pulse, h]

/-! ### Steps of the sequencer -/

/-- No step of the sequencer touches these. -/
theorem seqStep_frame (s : State) :
    (seqStep s).surface = s.surface ∧ (seqStep s).resets = s.resets ∧ (seqStep s).rot = s.rot ∧
    (seqStep s).level = s.level ∧ (seqStep s).duty = s.duty ∧ (seqStep s).phase = s.phase ∧
    (seqStep s).cnt = s.cnt ∧ (seqStep s).commands = s.commands ∧
    (seqStep s).rstInputs = s.rstInputs ∧ (seqStep s).draws = s.draws := by
  rcases h : s.seq with _ | _ | ⟨i, _ | _ | _⟩ | ⟨_ | _⟩
  · rw [seqStep_idle h]; simp
  · rw [seqStep_build h]; simp
  · rw [seqStep_dataSet h]; simp
  · rw [seqStep_clkHigh h]; simp
  · rw [seqStep_clkLow h]; simp
  · rw [seqStep_latHigh h]; simp
  · rw [seqStep_latLow h]; simp

/-- After any number of steps the sequencer is where its order puts it. -/
theorem seqStep_iterate_seq (n : Nat) (s : State) : (seqStep^[n] s).seq = Seq.after^[n] s.seq := by
  induction n with
  | zero => rfl
  | succ n ih => rw [Function.iterate_succ_apply', Function.iterate_succ_apply', seqStep_seq, ih]

/-! ### The host -/

/-- Everything the host can do in a step that accepts nothing: it moves on at `rst`, and at the command port it keeps a
presented word or moves on. -/
theorem hostHold_eq (s : State) : hostHold s =
    { s with commands := if s.cmdValid then s.commands else s.commands.next, rstInputs := s.rstInputs.next } := by
  unfold hostHold; split <;> rfl

/-- Everything the host can do in a step in which it resets the block. -/
theorem hostReset_eq (s : State) : hostReset s =
    { s with commands := if s.rstInput = .highWithdraw ∨ s.cmdValid = false then s.commands.next else s.commands,
             rstInputs := s.rstInputs.next } := by
  unfold hostReset
  by_cases h : s.rstInput = .highWithdraw
  · simp only [h, if_true, true_or]; rfl
  · cases hv : s.cmdValid <;> simp only [h, hv, hostHold, if_false, if_true, false_or, Bool.false_eq_true, reduceCtorEq] <;> rfl

@[simp] theorem HostList.head?_push {α : Type} (stream : Nat → α) (a : α) (l : HostList α) :
    (l.push a).head? stream = some a := rfl

@[simp] theorem HostList.next_push {α : Type} (a : α) (l : HostList α) : (l.push a).next = l := rfl

/-- The step after a placed word accepts nothing else first: `rst` is low and the word is presented. -/
theorem present_accepts (w : Word) (s : State) : Accepts (present w s) w := ⟨rfl, rfl, rfl⟩

/-! ### The PWM counter -/

theorem pwmPeriod_cases : Config.pwmPeriod = 255 ∨ Config.pwmPeriod = 256 := by
  unfold Config.pwmPeriod; split <;> simp

theorem cntNext_toNat {period : Nat} (hp : period = 255 ∨ period = 256) (c : Byte) :
    (cntNext period c).toNat = (c.toNat + 1) % period := by
  unfold cntNext; rw [BitVec.toNat_ofNat]; rcases hp with rfl | rfl <;> omega

/-- The free value that `CNT` has after a reset is in its range. -/
theorem resetCnt_lt (k : Nat) : (State.resetAt k).cnt.toNat < Config.pwmPeriod := by
  show (BitVec.ofNat 8 (Config.resetCnt k % Config.pwmPeriod)).toNat < _
  rw [BitVec.toNat_ofNat]
  rcases pwmPeriod_cases with h | h <;> rw [h] <;> omega

/-! ### The surface -/

/-- The cell of a cell's own column and row is the cell. -/
theorem cellOf_coords (c : Index) : cellOf (cellX c) (cellY c) = c := by
  apply Fin.ext; show 16 * (c.val / 16) + c.val % 16 = c.val; omega

/-- Of two writes to one cell the later stands, as data. -/
theorem Memory.set_set (m : Memory) (c : Nat) (v w : Byte) : (m.set c v).set c w = m.set c w := by
  induction m with
  | nil => simp [Memory.set]
  | cons e m ih =>
    obtain ⟨a, u⟩ := e
    by_cases h : c < a
    · simp [Memory.set, h]
    · by_cases h' : c = a
      · subst h'; simp [Memory.set]
      · simp [Memory.set, h, h', ih]

end Sys2Proof.Machine
end

