-- ==== Sys2Proof/Tests/Slice0.lean ====
section
/-!
SUPPORT. Small tests, whose expected results are the vectors of spec/95_test_vectors.md and the examples of
spec/30_encoding.md R78, and a witness for the hypotheses of each statement of Certificates/Slice0/Obligations.lean.
-/

namespace Sys2Proof.Tests

open Sys2Proof.Machine

/-! ### Well-formedness and words -/

/-- R72: each operand at both ends of its field, and one beyond each end. -/
theorem test_wellFormed_bounds :
    (Instr.setpixel (-2048) 2047 true).wellFormed = true ∧ (Instr.setpixel 2047 (-2048) true).wellFormed = true ∧
    (Instr.setpixel (-2049) 0 true).wellFormed = false ∧ (Instr.setpixel 2048 0 true).wellFormed = false ∧
    (Instr.setpixel 0 (-2049) true).wellFormed = false ∧ (Instr.setpixel 0 2048 true).wellFormed = false ∧
    (Instr.setbright (-32768)).wellFormed = true ∧ (Instr.setbright 32767).wellFormed = true ∧
    (Instr.setbright (-32769)).wellFormed = false ∧ (Instr.setbright 32768).wellFormed = false := by decide

/-- The words of spec/95_test_vectors.md 2.7 that name a command, bit by bit as the formats of R71 lay them out. -/
theorem test_decode_setpixel :
    decode 0b00010001000000000110000000000111#32 = .ok (.setpixel 6 7 true) ∧
    decode 0b00010001111111111111000000000101#32 = .ok (.setpixel (-1) 5 true) ∧
    decode 0b00010000000000010000000000000011#32 = .ok (.setpixel 16 3 false) ∧
    decode 0b00010000100000000000100000000000#32 = .ok (.setpixel (-2048) (-2048) false) ∧
    decode 0b00010001011111111111011111111111#32 = .ok (.setpixel 2047 2047 true) := by decide

theorem test_decode_setbright :
    decode 0b01000000000000001111111111111011#32 = .ok (.setbright (-5)) ∧
    decode 0b01000000000000000000000100101100#32 = .ok (.setbright 300) ∧
    decode 0b01000000000000001000000000000000#32 = .ok (.setbright (-32768)) ∧
    decode 0b01000000000000000111111111111111#32 = .ok (.setbright 32767) := by decide

theorem test_decode_without_integer_operands :
    decode 0b00100000000000000000000000000000#32 = .ok .clear ∧
    decode 0b00110000000000000000000000000000#32 = .ok .render ∧
    decode 0b01010000000000000000000000000000#32 = .ok (.setrot false) ∧
    decode 0b01010001000000000000000000000000#32 = .ok (.setrot true) ∧
    decode 0b01100000000000000000000000000000#32 = .ok .dstep := by decide

/-- The reserved words of spec/95_test_vectors.md 2.7 with an `op` that selects nothing. -/
theorem test_decode_reserved_opcode :
    decode 0x00000000#32 = .error .opcode ∧ decode 0x70000000#32 = .error .opcode ∧
    decode 0xFFFFFFFF#32 = .error .opcode := by decide

/-- The other reserved words of spec/95_test_vectors.md 2.7. -/
theorem test_decode_reserved_field :
    decode 0x20000001#32 = .error .mustBeZero ∧ decode 0x31000000#32 = .error .mustBeZero ∧
    decode 0x12000000#32 = .error .mustBeZero ∧ decode 0x1FFFFFFF#32 = .error .mustBeZero ∧
    decode 0x40010000#32 = .error .mustBeZero ∧ decode 0x50000001#32 = .error .mustBeZero := by decide

/-- Words of spec/95_test_vectors.md 2.2 to 2.4, from the command. -/
theorem test_encode :
    encode (.setpixel 15 15 true) = 0x1100F00F#32 ∧ encode (.setpixel 3 (-1) true) = 0x11003FFF#32 ∧
    encode (.setpixel 4 4 false) = 0x10004004#32 ∧ encode (.setbright (-32768)) = 0x40008000#32 ∧
    encode (.setbright (-1)) = 0x4000FFFF#32 ∧ encode (.setrot true) = 0x51000000#32 := by decide

theorem test_tableWord :
    decodeTableWord 32 0x60000000 = some .dstep ∧ decodeTableWord 32 0x4000FFFB = some (.setbright (-5)) ∧
    decodeTableWord 32 0x70000000 = none := by decide

/-! ### The assembler -/

/-- R78's lines. -/
theorem test_assemble_lines :
    assembleLine "SETPIXEL -1, 5, 1".toList = .ok (some 0x11FFF005#32) ∧
    assembleLine "SETBRIGHT 300   ; clamps".toList = .ok (some 0x4000012C#32) ∧
    assembleLine "SETROT 1".toList = .ok (some 0x51000000#32) ∧
    assembleLine "  ; only a comment".toList = .ok none := by decide

/-- R77's, and operands that do not fit (R76). -/
theorem test_assemble_pseudo_and_refused :
    assembleLine "PSET 6, 7".toList = .ok (some 0x11006007#32) ∧
    assembleLine "PCLR 0x0, 0".toList = .ok (some 0x10000000#32) ∧
    assembleLine "NOP".toList = .ok (some 0x00000000#32) ∧
    assembleLine "SETPIXEL 4000, 0, 1".toList = .error .noEncoding ∧
    assembleLine "SETBRIGHT 40000".toList = .error .noEncoding ∧
    assembleLine "SETROT 2".toList = .error .operand ∧ assembleLine "BLINK".toList = .error .mnemonic := by decide

/-! ### The commands -/

/-- The next state, if the outcome is one. -/
def nextOf : Host.Outcome State Fault Refusal → Option State
  | .next t => some t
  | _ => none

/-- An idle state with a given rotation, level and surface. -/
def drawing (rot : Bool) (level : Byte) (surface : Memory) : State :=
  { State.reset with rot := rot, level := level, surface := surface }

/-- V1.1, V1.2, V1.5, V1.11, V1.12, V1.13, V1.14. -/
theorem test_setpixel_stores :
    (nextOf (exec (.setpixel 6 7 true) (drawing false 128#8 []))).map (·.surface) = some [(118, 128#8)] ∧
    (nextOf (exec (.setpixel 6 7 true) (drawing true 128#8 []))).map (·.surface) = some [(137, 128#8)] ∧
    (nextOf (exec (.setpixel 15 15 true) (drawing false 1#8 []))).map (·.surface) = some [(255, 1#8)] ∧
    (nextOf (exec (.setpixel 4 4 true) (drawing false 0#8 []))).map (·.surface) = some [(68, 0#8)] ∧
    (nextOf (exec (.setpixel 4 4 false) (drawing false 200#8 [(68, 200#8)]))).map (·.surface) = some [(68, 0#8)] ∧
    (nextOf (exec (.setpixel 1 1 true) (drawing false 50#8 [(17, 200#8)]))).map (·.surface) = some [(17, 50#8)] ∧
    (nextOf (exec (.setpixel 15 0 true) (drawing true 9#8 []))).map (·.surface) = some [(240, 9#8)] := by decide

/-- V1.6 to V1.10, V1.15: nothing is stored, with `ROT` at 0 and at 1. -/
theorem test_setpixel_ignored :
    ∀ p ∈ [((16 : Int), (3 : Int)), (3, -1), (-1, 5), (2047, 2047), (-2048, -2048), (16, 16)], ∀ rot : Bool,
      (nextOf (exec (.setpixel p.1 p.2 true) (drawing rot 77#8 []))).map (·.surface) = some [] := by decide

/-- V2.1: the first and the last cell after CLEAR. -/
theorem test_clear :
    (nextOf (exec .clear (drawing false 9#8 [(0, 7#8), (255, 8#8)]))).map
      (fun t => (t.surface.get? 0, t.surface.get? 255, t.level)) = some (some 0#8, some 0#8, 9#8) := by
  show some (Memory.get? (Memory.fill 0#8) 0, Memory.get? (Memory.fill 0#8) 255, _) = _
  rw [Memory.get?_fill _ (by decide), Memory.get?_fill _ (by decide)]
  rfl

/-- V2.4, V2.6. -/
theorem test_setrot :
    (nextOf (exec (.setrot true) (drawing false 9#8 [(0, 5#8)]))).map (fun t => (t.rot, t.surface)) =
      some (true, [(0, 5#8)]) ∧
    (nextOf (exec (.setrot false) (drawing true 9#8 []))).map (·.rot) = some false := by decide

/-- V3.1, V3.4, V3.6 to V3.8, V3.11, V3.12. -/
theorem test_setbright :
    ∀ p ∈ [((0 : Int), (0#8 : Byte), (255#8 : Byte)), (128, 128#8, 127#8), (255, 255#8, 0#8), (256, 255#8, 0#8),
      (300, 255#8, 0#8), (-5, 0#8, 255#8), (-32768, 0#8, 255#8)],
      (nextOf (exec (.setbright p.1) (drawing false 9#8 [(3, 9#8)]))).map (fun t => (t.level, t.duty, t.surface)) =
        some (p.2.1, p.2.2, [(3, 9#8)]) := by decide

/-- V4.1 to V4.4. -/
theorem test_dstep :
    ∀ p ∈ [((0#2 : BitVec 2), (1#2 : BitVec 2)), (1#2, 2#2), (2#2, 3#2), (3#2, 0#2)],
      (nextOf (exec .dstep { State.reset with phase := p.1 })).map (·.phase) = some p.2 := by decide

/-- R114: RENDER makes the block busy. -/
theorem test_render_starts :
    (nextOf (exec .render State.reset)).map (fun t => (t.seq, t.busy, t.trace)) = some (.build, true, []) := by decide

/-- `EN` in spec/95_test_vectors.md 2.4. -/
theorem test_en :
    enLevel 2#8 3#8 = true ∧ enLevel 3#8 3#8 = false ∧ enLevel 255#8 3#8 = false ∧ enLevel 0#8 0#8 = false ∧
    enLevel 254#8 255#8 = true := by decide

/-- R142: the wrap of the counter for both periods. -/
theorem test_cnt_wraps :
    cntNext 255 254#8 = 0#8 ∧ cntNext 256 254#8 = 255#8 ∧ cntNext 256 255#8 = 0#8 := by decide

/-- V3.4 and V3.3: the lit fractions, and R149's combination with mask `0b0101`. -/
theorem test_lit_fraction :
    enabledTicks 256 127#8 = 129 ∧ enabledTicks 255 127#8 = 128 ∧ ditheredLitFraction 0b0101#4 256 128#8 = 1 / 4 ∧
    ditheredLitFraction 0b0101#4 255 128#8 = 127 / 510 := by
  have h6 : enabledTicks 256 128#8 = 128 := by decide +kernel
  have h5 : enabledTicks 255 128#8 = 127 := by decide +kernel
  have hm : popcount4 0b0101#4 = 2 := by decide
  refine ⟨by decide +kernel, by decide +kernel, ?_, ?_⟩
  · rw [ditheredLitFraction, ditherFraction, litFraction, h6, hm]; norm_num
  · rw [ditheredLitFraction, ditherFraction, litFraction, h5, hm]; norm_num

/-- V4's masks: `0b0111` in the four phases. -/
theorem test_mask :
    [0#2, 1#2, 2#2, 3#2].map (ditherOn 0b0111#4) = [true, true, true, false] ∧ popcount4 0b0101#4 = 2 := by decide

/-- R148: full at the head and not rising behind it is allowed, and dark at the head is not. -/
theorem test_dither_mask_allowed :
    DitherMaskAllowed (fun d => if d = 0 then 0b1111#4 else 0b0001#4) ∧ ¬ DitherMaskAllowed (fun _ => 0b0000#4) := by
  refine ⟨⟨rfl, fun d e h => ?_⟩, fun h => absurd h.1 (by decide)⟩
  by_cases hd : d = 0
  · subst hd
    by_cases he : e = 0
    · simp [he]
    · simp [he]; decide
  · have he : e ≠ 0 := by omega
    simp [hd, he]

/-! ### RENDER -/

/-- V5.3: one lit cell under the identity and under the reversal. -/
theorem test_build_vector :
    (buildVector (Equiv.refl Index) fun c => if c = 0 then 9#8 else 0#8).getLsbD (0 : Index).val = true ∧
    (buildVector Fin.revPerm fun c => if c = 0 then 9#8 else 0#8).getLsbD (0 : Index).val = false ∧
    (buildVector Fin.revPerm fun c => if c = 0 then 9#8 else 0#8).getLsbD (255 : Index).val = true := by
  simp only [buildVector_bit]
  decide

/-- V5.4: three shift steps, with `SRold[0] = 1` and the other old stages 0. -/
theorem test_three_shift_steps :
    ([0, 1, 2].foldl shiftBit { State.reset with pv := 0b101#256, sr := 1#256 }).sr = 0b1101#256 := by decide

/-- R115: what the events of a step are. -/
theorem test_shift_events :
    shiftEvents 0b10#256 1 = [(.data, true), (.clk, true), (.clk, false)] ∧
    (drive .clk true { State.reset with clk := true, sr := 1#256 }).sr = 1#256 := by decide

/-- R113: the rising edge of `LAT` copies the chain. -/
theorem test_latch_copies :
    (seqStep { State.reset with seq := .latch .latHigh, sr := 6#256, out := 1#256 }).out = 6#256 := by decide

/-- R26: the end of the sequencer's order. -/
theorem test_sequencer_end :
    Seq.after (.shift 0 .clkLow) = .shift 1 .dataSet ∧ Seq.after (.shift 255 .clkLow) = .latch .latHigh ∧
    Seq.after (.latch .latHigh) = .latch .latLow ∧ Seq.after (.latch .latLow) = .idle := by decide

/-! ### The step -/

/-- An idle state right after reset with the given words (or idle steps) and resets still to come. -/
def waiting (words : List (Option Word)) (resets : List ResetInput := []) : State :=
  { State.reset with commands := ⟨words, none⟩, rstInputs := ⟨resets, none⟩ }

/-- The same with the sequencer elsewhere. -/
def placed (q : Seq) (words : List (Option Word)) (resets : List ResetInput := []) : State :=
  { waiting words resets with seq := q }

/-- A word put where the step takes its next one is performed by the step, and the host goes on. -/
theorem test_step_performs :
    (nextOf (step (State.reset.withFetchWord 32 0x51000000))).map (fun t => (t.rot, t.commands, t.draws)) =
      some (true, ⟨[], none⟩, 1) ∧
    (nextOf (step (State.reset.withFetchWord 32 0x30000000))).map (·.seq) = some .build := by decide

/-- A reserved word is accepted and ignored (R74); a word presented while `BUSY = 1` stays presented (R33). -/
theorem test_step_reserved_and_busy :
    (nextOf (step (State.reset.withFetchWord 32 0x70000000))).map (fun t => (t.rot, t.seq, t.cmdWord?)) =
      some (false, .idle, none) ∧
    (nextOf (step (placed (.latch .latHigh) [some 0x60000000#32]))).map (fun t => (t.seq, t.phase, t.cmdWord?)) =
      some (.latch .latLow, 0#2, some 0x60000000#32) := by decide

/-- R191 and R173: reset in the middle of a RENDER, while a word is held; the host keeps the word or withdraws it. -/
theorem test_step_reset_while_held :
    (nextOf (step { placed (.shift 7 .clkLow) [some 0x60000000#32] [.high] with clk := true })).map
      (fun t => (t.seq, t.clk, t.cmdWord?)) = some (.idle, false, some 0x60000000#32) ∧
    (nextOf (step { placed (.shift 7 .clkLow) [some 0x60000000#32] [.highWithdraw] with clk := true })).map
      (fun t => (t.seq, t.clk, t.cmdWord?)) = some (.idle, false, none) := by decide

/-- R173 (5): reset in the instant of an acceptance; `cmd_valid`, `cmd_ready` and `rst` are all 1, and nothing is performed. -/
theorem test_step_reset_with_acceptance :
    ((waiting [some 0x51000000#32] [.high]).cmdValid, (waiting [some 0x51000000#32] [.high]).cmdReady,
      (waiting [some 0x51000000#32] [.high]).rstPin) = (true, true, true) ∧
    (nextOf (step (waiting [some 0x51000000#32] [.high]))).map (fun t => (t.rot, t.cmdWord?)) =
      some (false, some 0x51000000#32) := by decide

/-- R178: a host whose list is infinite goes on with its stream, entry by entry, after what is listed. -/
theorem test_endless_host :
    { State.reset with commands := ⟨[], some 7⟩ }.cmdWord? = Config.hostCommand 7 ∧
    (hostNext { State.reset with commands := ⟨[], some 7⟩ }).cmdWord? = Config.hostCommand 8 ∧
    ({ State.reset with rstInputs := ⟨[.low], some 3⟩ } : State).rstPin = false ∧
    (hostKeep { State.reset with rstInputs := ⟨[.low], some 3⟩ }).rstInput = Config.hostReset 3 := ⟨rfl, rfl, rfl, rfl⟩

/-! ### Witnesses: concrete states and operands that meet the hypotheses of each statement -/

theorem inv_waiting (words : List (Option Word)) (resets : List ResetInput := []) : Inv (waiting words resets) where
  surfaceForm := Memory.reset_wf 0
  cntBound := resetCnt_lt 0
  clkPin := rfl
  latPin := rfl
  dataPin := by intro i h; cases h
  snapshot := by intro h; cases h
  chain := by intro p hp; cases hp
  latched := by intro h; cases h
  traceLength := rfl
  traceTail := List.nil_suffix
  settled := by intro _ h; exact absurd rfl h

/-- A state at the first shift step, with a vector built. -/
def shifting (pv : Row) (resets : List ResetInput := []) : State :=
  { placed (.shift 0 .dataSet) [some 0x60000000#32] resets with pv := pv }

theorem inv_shifting (pv : Row) (h : pv = buildVector Config.hwmap (surfaceOf State.reset))
    (resets : List ResetInput := []) : Inv (shifting pv resets) where
  surfaceForm := Memory.reset_wf 0
  cntBound := resetCnt_lt 0
  clkPin := rfl
  latPin := rfl
  dataPin := by intro i h; cases h
  snapshot := fun _ => h.trans (congrArg (buildVector Config.hwmap) (surfaceOf_congr rfl rfl))
  chain := by intro p hp; cases hp
  latched := by intro h; cases h
  traceLength := rfl
  traceTail := List.nil_suffix
  settled := by intro h; cases h

/-- The words of test_decode and the commands of test_encode meet DecodeAndEncodeAgree; here at the ends of the fields. -/
theorem witness_DecodeAndEncodeAgree :
    decode 0x10800800#32 = .ok (.setpixel (-2048) (-2048) false) ∧ decode 0x40007FFF#32 = .ok (.setbright 32767) ∧
    (Instr.setpixel (-2048) 2047 true).wellFormed = true ∧ (Instr.setbright 32767).wellFormed = true ∧
    (Instr.setbright (-32768)).wellFormed = true := by decide

theorem witness_OpcodeRowsAreDisjointAndDecide :
    rowSetpixel ∈ opcodeRows ∧ 0x11FFFFFF#32 &&& rowSetpixel.mask = rowSetpixel.value ∧
    rowDstep ∈ opcodeRows ∧ 0x60000000#32 &&& rowDstep.mask = rowDstep.value := by decide

/-- One reserved word of each kind, and the first and last word of all, presented to an idle block. -/
theorem witness_ReservedWordIsIgnored :
    (∀ w, Accepts (waiting [some w]) w) ∧ decode? 0x00000000#32 = none ∧ decode? 0xFFFFFFFF#32 = none ∧
    decode? 0x12000000#32 = none ∧ decode? 0x20000001#32 = none ∧ decode? 0x40010000#32 = none ∧
    decode? 0x50000001#32 = none ∧ decode? 0x52000000#32 = none :=
  ⟨fun _ => ⟨rfl, rfl, rfl⟩, by decide⟩

theorem witness_PseudoInstructionsExpand :
    coordFits (-2048) = true ∧ coordFits 2047 = true ∧ coordFits 0 = true := by decide

theorem witness_AssemblerRefusesWhatDoesNotFit :
    (Instr.setpixel 2048 0 true).wellFormed = false ∧ (Instr.setbright (-32769)).wellFormed = false ∧
    (Instr.setpixel 2047 0 true).wellFormed = true := by decide

/-- A word of each command, presented to an idle block. -/
theorem witness_StepPerformsTheAcceptedCommand :
    (∀ w, Accepts (waiting [some w]) w) ∧ decode 0x11006007#32 = .ok (.setpixel 6 7 true) ∧
    decode 0x20000000#32 = .ok .clear ∧ decode 0x30000000#32 = .ok .render ∧
    decode 0x40000080#32 = .ok (.setbright 128) ∧ decode 0x51000000#32 = .ok (.setrot true) ∧
    decode 0x60000000#32 = .ok .dstep :=
  ⟨fun _ => ⟨rfl, rfl, rfl⟩, by decide⟩

/-- A busy block, with a word presented, with the port idle, and with nothing left for the host to do. -/
theorem witness_WordIsHeldWhileBusy :
    (placed .build [some 0#32]).busy = true ∧ (placed .build [some 0#32] [.low, .high]).rstPin = false ∧
    (placed .build [some 0#32]).cmdWord? = some 0#32 ∧
    (placed (.latch .latLow) [none, some 0#32]).busy = true ∧ (placed (.latch .latLow) [none, some 0#32]).rstPin = false ∧
    (placed (.latch .latLow) [none, some 0#32]).cmdWord? = none ∧ (placed .build []).cmdWord? = none := by decide

theorem witness_IdleBlockWaits :
    (waiting [none, some 0#32]).busy = false ∧ (waiting [none, some 0#32]).rstPin = false ∧
    (waiting [none, some 0#32]).cmdWord? = none ∧ State.reset.rstPin = false ∧ State.reset.cmdWord? = none := by decide

/-- A word presented to an idle block, to a busy one, and in a step that resets the block, kept and withdrawn; each step
answers a next state. -/
theorem witness_WordsAreAcceptedInOrder :
    (∃ t, (waiting [some 0x20000000#32, none]).cmdWord? = some 0x20000000#32 ∧
      step (waiting [some 0x20000000#32, none]) = .next t) ∧
    (∃ t, (placed .build [some 0x20000000#32, none]).cmdWord? = some 0x20000000#32 ∧
      step (placed .build [some 0x20000000#32, none]) = .next t) ∧
    (∃ t, (waiting [some 0x20000000#32] [.high]).cmdWord? = some 0x20000000#32 ∧
      (waiting [some 0x20000000#32] [.high]).rstPin = true ∧ step (waiting [some 0x20000000#32] [.high]) = .next t) ∧
    (∃ t, (placed .build [some 0x20000000#32] [.highWithdraw]).cmdWord? = some 0x20000000#32 ∧
      (placed .build [some 0x20000000#32] [.highWithdraw]).rstInput = .highWithdraw ∧
      step (placed .build [some 0x20000000#32] [.highWithdraw]) = .next t) :=
  ⟨⟨_, rfl, rfl⟩, ⟨_, rfl, rfl⟩, ⟨_, rfl, rfl, rfl⟩, ⟨_, rfl, rfl, rfl⟩⟩

/-- Reset asserted with the block idle and a word about to be accepted, and in the middle of a RENDER with a word held; both
of the same reset number. -/
theorem witness_ResetWinsInEveryState :
    (waiting [some 0#32] [.high]).rstPin = true ∧ (placed (.shift 128 .clkLow) [some 0#32] [.highWithdraw]).rstPin = true ∧
    (placed (.shift 128 .clkLow) [some 0#32] [.highWithdraw]).resets = (waiting [some 0#32] [.high]).resets := by decide

/-- An idle state, a state at the first shift step with a word held, and the steps from them. -/
theorem witness_StepKeepsTheInvariant :
    (Inv (waiting [some 0x30000000#32]) ∧ ∃ t, step (waiting [some 0x30000000#32]) = .next t) ∧
    (∀ resets, Inv (shifting (buildVector Config.hwmap (surfaceOf State.reset)) resets)) ∧
    (∀ pv, ∃ t, step (shifting pv [.high]) = .next t) ∧ (∀ pv, ∃ t, step (shifting pv []) = .next t) :=
  ⟨⟨inv_waiting _, _, rfl⟩, fun _ => inv_shifting _ rfl _, fun _ => ⟨_, rfl⟩, fun _ => ⟨_, step_runOn rfl (.inl rfl)⟩⟩

/-- SETPIXEL at the four corners of the range, and one beyond each side of it. -/
theorem witness_SetPixelWritesOneCellOrNothing :
    (∀ p ∈ [((0 : Int), (0 : Int)), (0, 15), (15, 0), (15, 15)], 0 ≤ p.1 ∧ p.1 ≤ 15 ∧ 0 ≤ p.2 ∧ p.2 ≤ 15) ∧
    (∀ p ∈ [((-1 : Int), (0 : Int)), (16, 0), (0, -1), (0, 16)], ¬(0 ≤ p.1 ∧ p.1 ≤ 15 ∧ 0 ≤ p.2 ∧ p.2 ≤ 15)) := by
  decide

/-- A SETPIXEL that stores, and one that does not; the surface right after reset has its form. -/
theorem witness_SetPixelFrame :
    (∃ t, exec (.setpixel 15 0 true) State.reset = .next t) ∧ pixelCell? State.reset.rot 15 0 = some 15 ∧
    (∃ t, exec (.setpixel 16 0 true) State.reset = .next t) ∧ pixelCell? State.reset.rot 16 0 ≠ some 16 ∧
    State.reset.surface.wf :=
  ⟨⟨_, rfl⟩, by decide, ⟨_, rfl⟩, by decide, Memory.reset_wf 0⟩

theorem witness_LaterSetPixelStands : ∃ t, exec (.setpixel 0 15 true) State.reset = .next t := ⟨_, rfl⟩

theorem witness_SurfaceCommandsLeaveTheOutputsAlone :
    (∃ t, exec (.setpixel 0 15 true) State.reset = .next t) ∧ (∃ t, exec .clear State.reset = .next t) ∧
    (∃ t, exec (.setrot true) State.reset = .next t) ∧ State.reset.surface.wf :=
  ⟨⟨_, rfl⟩, ⟨_, rfl⟩, ⟨_, rfl⟩, Memory.reset_wf 0⟩

/-- A SETBRIGHT, and the dimmest and brightest of the states that it leaves, stepping without reset. -/
theorem witness_DutyFollowsLevelForEver :
    (∃ t, exec (.setbright (-5)) State.reset = .next t) ∧
    DutyMatchesLevel (setBrightness 0#8 255#8 State.reset) ∧ DutyMatchesLevel (setBrightness 255#8 0#8 State.reset) ∧
    ∀ l d, (setBrightness l d State.reset).rstPin = false ∧ ∃ t, step (setBrightness l d State.reset) = .next t :=
  ⟨⟨_, rfl⟩, by unfold DutyMatchesLevel; decide, by unfold DutyMatchesLevel; decide,
    fun _ _ => ⟨rfl, _, step_runOn rfl (.inr rfl)⟩⟩

theorem witness_BrightnessCommandsLeaveThePictureAlone :
    (∃ t, exec (.setbright 300) State.reset = .next t) ∧ (∃ t, exec .dstep State.reset = .next t) :=
  ⟨⟨_, rfl⟩, ⟨_, rfl⟩⟩

/-- The first and the last tick of each period, the counter's first and last value, and a step without reset. -/
theorem witness_PwmGeneratorCountsAndCompares :
    (0 < 255 ∧ 254 < 255 ∧ 255 < 256) ∧ (0#8 : Byte).toNat < 255 ∧ (254#8 : Byte).toNat < 255 ∧
    (255#8 : Byte).toNat < 256 ∧ (255 = 255 ∨ 255 = 256) ∧ (256 = 255 ∨ 256 = 256) ∧
    State.reset.rstPin = false ∧ ∃ t, step State.reset = .next t :=
  ⟨by decide, by decide, by decide, by decide, by decide, by decide, rfl, _, step_runOn rfl (.inr rfl)⟩

theorem witness_LitFractionFormula :
    (0#8 : Byte).toNat < (1#8 : Byte).toNat ∧ (254#8 : Byte).toNat < (255#8 : Byte).toNat ∧
    (255 = 255 ∨ 255 = 256) ∧ (256 = 255 ∨ 256 = 256) := by decide

/-- A position and its cell under the reversal, and a state at the build step. -/
theorem witness_BuildStepBuildsTheVector :
    (Fin.revPerm : Equiv.Perm Index) 0 = 255 ∧ (Fin.revPerm : Equiv.Perm Index) 255 = 0 ∧
    (placed .build []).seq = .build := by decide

/-- Steps without reset from an idle state that accepts a RENDER and from a busy one; the first and last places. -/
theorem witness_SequencerOrderIsFixed :
    ((waiting [some 0x30000000#32]).rstPin = false ∧ ∃ t, step (waiting [some 0x30000000#32]) = .next t) ∧
    ((placed .build []).rstPin = false ∧ ∃ t, step (placed .build []) = .next t) ∧ 0 < renderSteps ∧ 770 < renderSteps :=
  ⟨⟨rfl, _, rfl⟩, ⟨rfl, _, step_runOn rfl (.inl rfl)⟩, by decide, by decide⟩

/-- Each of the five places, the last bit and the one before it among them. -/
theorem witness_SequencerStepsDriveThePins :
    (placed (.shift 0 .dataSet) []).seq = .shift 0 .dataSet ∧ (placed (.shift 255 .clkHigh) []).seq = .shift 255 .clkHigh ∧
    (placed (.shift 255 .clkLow) []).seq = .shift 255 .clkLow ∧ (255 : Index).val = 255 ∧
    (placed (.shift 254 .clkLow) []).seq = .shift 254 .clkLow ∧ (255 : Index).val = (254 : Index).val + 1 ∧
    (placed (.latch .latHigh) []).seq = .latch .latHigh ∧ (placed (.latch .latLow) []).seq = .latch .latLow :=
  ⟨rfl, rfl, rfl, rfl, rfl, rfl, rfl, rfl⟩

/-- A first RENDER right after reset and a second from a state that a SETROT and a SETBRIGHT have changed since; clock and
latch are low after the first one, whatever it shows. -/
theorem witness_RenderFrame :
    State.reset.clk = false ∧ State.reset.lat = false ∧
    ∃ u : State, u.clk = false ∧ u.lat = false ∧ surfaceOf u = surfaceOf (renderWhole State.reset) ∧ u.rot = true :=
  have turned (v : State) : ∃ u : State, u.clk = false ∧ u.lat = false ∧ surfaceOf u = surfaceOf v ∧ u.rot = true :=
    ⟨{ v with rot := true, clk := false, lat := false }, rfl, rfl, surfaceOf_congr rfl rfl, rfl⟩
  ⟨rfl, rfl, turned _⟩

theorem witness_RisingClockShiftsTheChain :
    State.reset.clk = false ∧ (placed (.shift 0 .clkLow) []).clk = false ∧ (drive .clk true State.reset).clk = true :=
  ⟨rfl, rfl, rfl⟩

theorem witness_RisingLatchCopiesTheChain :
    State.reset.lat = false ∧ (drive .lat true State.reset).lat = true := ⟨rfl, rfl⟩

/-- A step that shifts the chain and a step that latches it, each with a change to see. -/
theorem witness_ChainMovesOnlyInItsOwnSteps :
    (∃ t, ({ placed (.shift 0 .clkHigh) [] with sr := 1#256 } : State).rstPin = false ∧
      step { placed (.shift 0 .clkHigh) [] with sr := 1#256 } = .next t ∧ t.sr ≠ 1#256) ∧
    (∃ t, ({ placed (.latch .latHigh) [] with sr := 1#256, out := 0#256 } : State).rstPin = false ∧
      step { placed (.latch .latHigh) [] with sr := 1#256, out := 0#256 } = .next t ∧ t.out ≠ 0#256) :=
  ⟨⟨_, rfl, step_runOn rfl (.inl rfl), by decide⟩, ⟨_, rfl, step_runOn rfl (.inl rfl), by decide⟩⟩

theorem witness_ShiftStepsFillTheChain :
    State.reset.clk = false ∧ (0 : Nat) ≤ 256 ∧ (256 : Nat) ≤ 256 ∧ (255 : Nat) < 256 := ⟨rfl, by decide⟩

theorem witness_RenderRecordsItsEvents : (0 : Nat) < 256 ∧ (255 : Nat) < 256 := by decide

theorem witness_SequencerStepsRefineRender : 0 < renderSteps ∧ 770 < renderSteps := by decide

/-- A host whose resets are all made makes none in any number of steps. -/
theorem noReset_of_empty {s : State} (n : Nat) (h : s.rstInputs = ⟨[], none⟩) : NoReset n s := by
  intro k _
  rw [h, Function.iterate_fixed (show HostList.next (⟨[], none⟩ : HostList ResetInput) = ⟨[], none⟩ from rfl)]
  rfl

/-- A host that resets the block later than the run looked at does not reset it in the run. -/
theorem test_noReset_before_a_reset : NoReset 2 (waiting [] [.low, .low, .high]) ∧ ¬ NoReset 3 (waiting [] [.low, .low, .high]) := by
  refine ⟨fun k hk => ?_, fun h => absurd (h 2 (by decide)) (by decide)⟩
  match k with
  | 0 => rfl
  | 1 => rfl
  | k + 2 => omega

/-- A RENDER accepted right after reset, with another word behind it. -/
theorem witness_RenderPutsTheSurfaceOnTheLeds :
    Inv (waiting [some 0x30000000#32, some 0x60000000#32]) ∧
    Accepts (waiting [some 0x30000000#32, some 0x60000000#32]) 0x30000000#32 ∧
    decode 0x30000000#32 = .ok .render ∧ NoReset (renderSteps + 1) (waiting [some 0x30000000#32, some 0x60000000#32]) :=
  ⟨inv_waiting _, ⟨rfl, rfl, rfl⟩, by decide, noReset_of_empty _ rfl⟩

/-- The same state, at every number of steps: before the RENDER, on both sides of its latch, and at its end. -/
theorem witness_FrameChangesAtOneInstant :
    ∀ n ∈ [0, 1, 770, 771, 772], n ≤ renderSteps + 1 ∧ Inv (waiting [some 0x30000000#32]) ∧
      Accepts (waiting [some 0x30000000#32]) 0x30000000#32 ∧ decode 0x30000000#32 = .ok .render ∧
      NoReset n (waiting [some 0x30000000#32]) ∧ ∃ t, runSteps n (waiting [some 0x30000000#32]) = .next t := by
  intro n hn
  refine ⟨?_, inv_waiting _, ⟨rfl, rfl, rfl⟩, by decide, noReset_of_empty _ rfl, runSteps_next n _⟩
  revert n
  decide

/-- Two states that differ in every element but the surface, with clock and latch low. -/
theorem witness_SecondRenderShowsTheSamePicture :
    State.reset.clk = false ∧ State.reset.lat = false ∧
    ∃ u : State, u.clk = false ∧ u.lat = false ∧ surfaceOf u = surfaceOf State.reset ∧ u.rot ≠ State.reset.rot :=
  ⟨rfl, rfl, { State.reset with rot := true }, rfl, rfl, surfaceOf_congr rfl rfl, by decide⟩

theorem witness_LitCellsAreTheNonzeroCells : State.reset.clk = false ∧ State.reset.lat = false := ⟨rfl, rfl⟩

theorem witness_ClearThenRenderIsDark :
    State.reset.clk = false ∧ State.reset.lat = false ∧ ∃ t, exec .clear State.reset = .next t := ⟨rfl, rfl, _, rfl⟩

/-- A step without reset that changes each kind of register. -/
theorem witness_OnlyItsCommandWritesARegister :
    (∃ t, (waiting [some 0x11006007#32]).rstPin = false ∧ step (waiting [some 0x11006007#32]) = .next t ∧
      t.surface ≠ State.reset.surface) ∧
    (∃ t, step (waiting [some 0x51000000#32]) = .next t ∧ t.rot ≠ State.reset.rot) ∧
    (∃ t, step (setBrightness 7#8 9#8 (waiting [some 0x4000FFFB#32])) = .next t ∧ t.level ≠ 7#8) ∧
    (∃ t, step (waiting [some 0x60000000#32]) = .next t ∧ t.phase ≠ State.reset.phase) ∧
    (∃ t, step (placed (.shift 0 .clkHigh) []) = .next t ∧ t.clk ≠ State.reset.clk ∧ t.trace ≠ State.reset.trace) :=
  ⟨⟨_, rfl, rfl, by decide⟩, ⟨_, rfl, by decide⟩, ⟨_, rfl, by decide⟩, ⟨_, rfl, by decide⟩,
    ⟨_, step_runOn rfl (.inl rfl), by decide, by decide⟩⟩

theorem witness_TraceOnlyGrows :
    (∃ t, (placed (.latch .latHigh) []).rstPin = false ∧ step (placed (.latch .latHigh) []) = .next t) ∧
    (∃ t, (waiting []).rstPin = false ∧ step (waiting []) = .next t) :=
  ⟨⟨_, rfl, step_runOn rfl (.inl rfl)⟩, ⟨_, rfl, step_runOn rfl (.inr rfl)⟩⟩

/-- Two states that differ in `CNT`, and both steps. -/
theorem witness_CounterNeverLeaks :
    SameButCnt { State.reset with cnt := 0#8 } { State.reset with cnt := 254#8 } ∧
    ({ State.reset with cnt := 0#8 } : State).commands = ({ State.reset with cnt := 254#8 } : State).commands ∧
    ({ State.reset with cnt := 0#8 } : State).rstInputs = ({ State.reset with cnt := 254#8 } : State).rstInputs ∧
    ({ State.reset with cnt := 0#8 } : State).rstPin = false ∧
    (∃ t, step { State.reset with cnt := 0#8 } = .next t) ∧ (∃ t, step { State.reset with cnt := 254#8 } = .next t) :=
  ⟨⟨surfaceOf_congr rfl rfl, rfl, rfl, rfl, rfl, rfl, rfl, rfl, rfl, rfl, rfl, rfl⟩, rfl, rfl, rfl,
    ⟨_, step_runOn rfl (.inr rfl)⟩, ⟨_, step_runOn rfl (.inr rfl)⟩⟩

/-- The boot sequence of a host. -/
def boot (level : Int) : List (Option Word) :=
  [some (encode (.setbright level)), some (encode .clear), some (encode .render)]

/-- The state after a second reset with the given words still to come. -/
def restarted (words : List (Option Word)) : State :=
  { takeReset State.reset with commands := ⟨words, none⟩ }

theorem inv_restarted (words : List (Option Word)) : Inv (restarted words) where
  surfaceForm := Memory.reset_wf 1
  cntBound := resetCnt_lt 1
  clkPin := rfl
  latPin := rfl
  dataPin := by intro i h; cases h
  snapshot := by intro h; cases h
  chain := by intro p hp; cases hp
  latched := by intro h; cases h
  traceLength := rfl
  traceTail := List.nil_suffix
  settled := by intro _ h; exact absurd rfl h

/-- The states of the first reset and of the second, at the dimmest and the brightest level of R192; one of the hosts has
another word behind its boot sequence. -/
theorem witness_BootDefinesEveryElement :
    (∀ level ∈ [(1 : Int), 255], 1 ≤ level ∧ level ≤ 255) ∧
    ∀ level, Inv (waiting (boot level)) ∧ Inv (restarted (boot level ++ [some 0#32])) ∧
      (waiting (boot level)).seq = .idle ∧ (restarted (boot level ++ [some 0#32])).seq = .idle ∧
      (waiting (boot level)).rot = (restarted (boot level ++ [some 0#32])).rot ∧
      (waiting (boot level)).phase = (restarted (boot level ++ [some 0#32])).phase ∧
      (waiting (boot level)).commands.listed = boot level ++ [] ∧
      (restarted (boot level ++ [some 0#32])).commands.listed = boot level ++ [some 0#32] ∧
      NoReset (renderSteps + 3) (waiting (boot level)) ∧
      NoReset (renderSteps + 3) (restarted (boot level ++ [some 0#32])) :=
  ⟨by decide, fun _ => ⟨inv_waiting _, inv_restarted _, rfl, rfl, rfl, rfl, rfl, rfl, noReset_of_empty _ rfl,
    noReset_of_empty _ rfl⟩⟩

end Sys2Proof.Tests
end

section
/-!
Settles the family of the command word and the assembler (spec/30_encoding.md). The opcode rows are told apart by the four
bits of `op`, which every mask covers, so a word matches at most one row; and the decoder's answer is a command of the row
the word matches, or a reserved word when it matches none.
-/

namespace Sys2Proof

open Sys2Proof.Machine

/-! ### The opcode rows (R73) -/

theorem OpcodeRow.matches_iff (r : OpcodeRow) (w : Word) : r.matches w = true ↔ w &&& r.mask = r.value :=
  beq_iff_eq

theorem Instr.row_mem_opcodeRows (i : Instr) : i.row ∈ opcodeRows := by
  cases i <;> simp [Instr.row, opcodeRows]

/-- The mask of every row covers `op`, bits 31:28. -/
theorem mask_and_op_of_mem_opcodeRows : ∀ r ∈ opcodeRows, r.mask &&& 0xF0000000#32 = 0xF0000000#32 := by decide

/-- No two rows have the same `op`. -/
theorem eq_of_value_and_op_eq :
    ∀ r ∈ opcodeRows, ∀ r' ∈ opcodeRows, r.value &&& 0xF0000000#32 = r'.value &&& 0xF0000000#32 → r = r' := by decide

/-- A word that matches a row has the `op` of the row. -/
theorem and_op_eq_of_matches {r : OpcodeRow} {w : Word} (hr : r ∈ opcodeRows) (h : r.matches w = true) :
    w &&& 0xF0000000#32 = r.value &&& 0xF0000000#32 := by
  rw [← (r.matches_iff w).1 h, BitVec.and_assoc, mask_and_op_of_mem_opcodeRows r hr]

theorem opcodeRows_disjoint {r r' : OpcodeRow} {w : Word} (hr : r ∈ opcodeRows) (hr' : r' ∈ opcodeRows)
    (h : r.matches w = true) (h' : r'.matches w = true) : r = r' :=
  eq_of_value_and_op_eq r hr r' hr' ((and_op_eq_of_matches hr h).symm.trans (and_op_eq_of_matches hr' h'))

/-! ### The rows and the decoder (R73, R79) -/

/-- The decoder answers a command of a row the word matches, or the word matches no row. -/
theorem decode_row_cases (w : Word) :
    (∃ i, decode w = .ok i ∧ i.row.matches w = true) ∨
    (decode w = .error (reservedKind w) ∧ ∀ r ∈ opcodeRows, ¬ r.matches w = true) := by
  obtain ⟨hw, hd⟩ | ⟨hw, hd⟩ | ⟨hw, hd⟩ | ⟨hw, hd⟩ | ⟨hop, hzero, hd⟩ | ⟨hw, hd⟩ | ⟨h1, h2, h3, h4, h5, h6, hd⟩ :=
    decode_cases w
  · exact .inl ⟨_, hd, (matches_setpixel_iff w).2 hw⟩
  · exact .inl ⟨_, hd, (matches_clear_iff w).2 hw⟩
  · exact .inl ⟨_, hd, (matches_render_iff w).2 hw⟩
  · exact .inl ⟨_, hd, (matches_setbright_iff w).2 hw⟩
  · exact .inl ⟨_, hd, (matches_setrot_iff w).2 ⟨hop, hzero⟩⟩
  · exact .inl ⟨_, hd, (matches_dstep_iff w).2 hw⟩
  · refine .inr ⟨hd, ?_⟩
    simp only [opcodeRows, List.forall_mem_cons, matches_setpixel_iff, matches_clear_iff, matches_render_iff,
      matches_setbright_iff, matches_setrot_iff, matches_dstep_iff]
    exact ⟨h1, h2, h3, h4, h5, h6, List.forall_mem_nil _⟩

theorem row_matches_of_decode_ok {w : Word} {i : Instr} (h : decode w = .ok i) : i.row.matches w = true := by
  obtain ⟨j, hj, hm⟩ | ⟨he, -⟩ := decode_row_cases w
  · obtain rfl : j = i := Except.ok.inj (hj.symm.trans h)
    exact hm
  · cases he.symm.trans h

/-- A word matches a row exactly when it decodes to a command of that row. -/
theorem matches_iff_decode_row {w : Word} {r : OpcodeRow} (hr : r ∈ opcodeRows) :
    r.matches w = true ↔ ∃ i, decode w = .ok i ∧ i.row = r := by
  constructor
  · intro h
    obtain ⟨i, hi, hm⟩ | ⟨-, hnone⟩ := decode_row_cases w
    · exact ⟨i, hi, opcodeRows_disjoint i.row_mem_opcodeRows hr hm h⟩
    · exact absurd h (hnone r hr)
  · rintro ⟨i, hi, rfl⟩
    exact row_matches_of_decode_ok hi

/-- Settles O3: the map's columns by evaluation, the rest because the rows differ in `op`. -/
theorem opcodeRowsAreDisjointAndDecide : Obligations.OpcodeRowsAreDisjointAndDecide := by
  refine ⟨rfl, fun cw r hr => ?_, fun cw r r' hr hr' h h' => ?_⟩
  · rw [← r.matches_iff, matches_iff_decode_row hr]
  · exact opcodeRows_disjoint hr hr' ((r.matches_iff cw).2 h) ((r'.matches_iff cw).2 h')

/-! ### The word of a SETPIXEL and the pseudo-instructions (R71, R77) -/

/-- The low 12 bits of an integer's 32 are its 12 bits: what the formulas of R77 put into the fields `a` and `b`. -/
theorem ofInt_and_field_toNat (x : Int) : (BitVec.ofInt 32 x &&& 0xFFF#32).toNat = (BitVec.ofInt 12 x).toNat := by
  rw [BitVec.toNat_and, BitVec.toNat_ofInt, BitVec.toNat_ofInt]
  show (x % (2 ^ 32 : Nat)).toNat &&& (2 ^ 12 - 1) = _
  rw [Nat.and_two_pow_sub_one_eq_mod]
  omega

/-- Three fields at bits 24, 12 and 0 do not overlap, so their `|||` is their sum. -/
theorem or_fields_toNat (c a b : Word) (hc : c.toNat % 2 ^ 24 = 0) (ha : a.toNat < 2 ^ 12) (hb : b.toNat < 2 ^ 12) :
    (c ||| (a <<< 12) ||| b).toNat = c.toNat + a.toNat * 2 ^ 12 + b.toNat := by
  have hshift : (a <<< 12).toNat = a.toNat * 2 ^ 12 := by
    rw [BitVec.toNat_shiftLeft, Nat.shiftLeft_eq, Nat.mod_eq_of_lt (by omega)]
  have hhigh : c.toNat = 2 ^ 24 * (c.toNat / 2 ^ 24) := by omega
  have hca : c.toNat ||| a.toNat * 2 ^ 12 = c.toNat + a.toNat * 2 ^ 12 := by
    rw [hhigh, Nat.two_pow_add_eq_or_of_lt (by omega)]
  have hmid : c.toNat + a.toNat * 2 ^ 12 = 2 ^ 12 * (2 ^ 12 * (c.toNat / 2 ^ 24) + a.toNat) := by omega
  rw [BitVec.toNat_or, BitVec.toNat_or, hshift, hca, hmid, Nat.two_pow_add_eq_or_of_lt hb]

/-- The word of a SETPIXEL is R77's formula over the word with `op` and `f` alone, also where a coordinate does not fit. -/
theorem encode_setpixel_eq_or (x y : Int) (on : Bool) :
    encode (.setpixel x y on) = (if on then 0x11000000#32 else 0x10000000#32) |||
      ((BitVec.ofInt 32 x &&& 0xFFF#32) <<< 12) ||| (BitVec.ofInt 32 y &&& 0xFFF#32) := by
  have hx := (BitVec.ofInt 12 x).isLt
  have hy := (BitVec.ofInt 12 y).isLt
  apply BitVec.eq_of_toNat_eq
  rw [encode_setpixel_toNat, or_fields_toNat, ofInt_and_field_toNat, ofInt_and_field_toNat]
  · cases on <;> simp
  · cases on <;> rfl
  · rwa [ofInt_and_field_toNat]
  · rwa [ofInt_and_field_toNat]

theorem assembleInstr_setpixel {x y : Int} (hx : coordFits x = true) (hy : coordFits y = true) (on : Bool) :
    assembleInstr (.setpixel x y on) = .ok (encode (.setpixel x y on)) := by
  simp [assembleInstr, Instr.wellFormed, hx, hy]

/-- Settles O5: PSET and PCLR are SETPIXELs, whose word is the formula; NOP's word has `op` 0. -/
theorem pseudoInstructionsExpand : Obligations.PseudoInstructionsExpand := by
  refine ⟨fun x y hx hy => ?_, rfl, by decide⟩
  have hset : assemblePseudo (.pset x y) = .ok (encode (.setpixel x y true)) := assembleInstr_setpixel hx hy true
  have hclr : assemblePseudo (.pclr x y) = .ok (encode (.setpixel x y false)) := assembleInstr_setpixel hx hy false
  exact ⟨hset, by rw [hset, encode_setpixel_eq_or]; rfl, hclr, by rw [hclr, encode_setpixel_eq_or]; rfl⟩

end Sys2Proof
end

section
/-!
Settles the family of the surface commands (spec/40_surface_ops.md). Which cell a SETPIXEL names is said once, for both
rotations, and so is when it names none; what the store does to every cell is `cellByte_setCell`.
-/

namespace Sys2Proof

open Sys2Proof.Machine

/-! ### The cell that a SETPIXEL names (R90) -/

theorem coordsInRange_iff (x y : Int) :
    (coordInRange x && coordInRange y) = true ↔ 0 ≤ x ∧ x ≤ 15 ∧ 0 ≤ y ∧ y ≤ 15 := by
  simp [coordInRange, and_assoc]

/-- A SETPIXEL names no cell exactly when a coordinate is out of range. -/
theorem pixelCell?_eq_none_iff (rot : Bool) (x y : Int) :
    pixelCell? rot x y = none ↔ ¬(0 ≤ x ∧ x ≤ 15 ∧ 0 ≤ y ∧ y ≤ 15) := by
  simp [pixelCell?, ← coordsInRange_iff]

/-- With both coordinates in range the cell named is R51's index of the rotated coordinates, nothing being cut off. -/
theorem pixelCell?_of_inRange (rot : Bool) {x y : Int} (h : 0 ≤ x ∧ x ≤ 15 ∧ 0 ≤ y ∧ y ≤ 15) :
    ∃ c, pixelCell? rot x y = some c ∧ (c : Int) = if rot then 16 * (15 - y) + (15 - x) else 16 * y + x := by
  refine ⟨_, if_pos ((coordsInRange_iff x y).2 h), ?_⟩
  cases rot with
  | false => exact Int.toNat_of_nonneg (show 0 ≤ 16 * y + x by omega)
  | true => exact Int.toNat_of_nonneg (show 0 ≤ 16 * (15 - y) + (15 - x) by omega)

/-! ### SETPIXEL -/

theorem exec_setpixel_of_some {s : State} {x y : Int} {c : Nat} (h : pixelCell? s.rot x y = some c) (on : Bool) :
    exec (.setpixel x y on) s = .next (setCell c (pixelByte on s.level) s) := by
  rw [exec_setpixel, h]

theorem exec_setpixel_of_none {s : State} {x y : Int} (h : pixelCell? s.rot x y = none) (on : Bool) :
    exec (.setpixel x y on) s = .next s := by
  rw [exec_setpixel, h]

/-- Settles O16: the coordinates name a cell exactly when both are in range, and the store changes that cell alone. -/
theorem setPixelWritesOneCellOrNothing : Obligations.SetPixelWritesOneCellOrNothing := by
  refine fun s x y on => ⟨fun hin => ?_, fun hout => ?_⟩
  · obtain ⟨c, hc, hindex⟩ := pixelCell?_of_inRange s.rot hin
    refine ⟨_, exec_setpixel_of_some hc on, rfl, fun d => ?_⟩
    rw [cellByte_setCell, ← hindex]
    simp only [Int.natCast_inj, pixelByte]
  · exact exec_setpixel_of_none ((pixelCell?_eq_none_iff s.rot x y).2 hout) on

/-! ### CLEAR and SETROT -/

/-- Settles O20: CLEAR fills the surface with 0, which every cell then reads. -/
theorem clearZeroesTheSurface : Obligations.ClearZeroesTheSurface :=
  fun s => ⟨fillSurface 0#8 s, exec_clear s, fun c => cellByte_fillSurface s 0#8 c.isLt, rfl⟩

/-- Settles O21: SETROT is the update of `ROT`. -/
theorem setRotSelectsTheRotation : Obligations.SetRotSelectsTheRotation :=
  fun s r => exec_setrot r s

end Sys2Proof
end

section
/-!
Settles the family of RENDER and the serializer (spec/41_render_serializer.md). The bits of a whole frame are computed once:
`Build` is one bit a cell, and after j shift steps stage k holds the bit j - 1 - k; the latches then show the vector of the
surface alone, which is what a later RENDER of the same surface shows again.
-/

namespace Sys2Proof

open Sys2Proof.Machine

/-! ### The build step (R110, R111) -/

/-- Bit p of the vector is the bit of the cell mapped to p. -/
theorem buildVector_bit_hwmap (hwmap : Equiv.Perm Index) (surf : Index → Byte) (c : Index) :
    (buildVector hwmap surf).getLsbD (hwmap c).val = (surf c != 0#8) := by
  rw [buildVector_bit, Equiv.symm_apply_apply]

/-- Settles O33: one bit of `Build`, and the model's law of the build step. -/
theorem buildStepBuildsTheVector : Obligations.BuildStepBuildsTheVector := by
  refine ⟨fun hwmap surf p c hp => ?_, fun s hs => ?_⟩
  · rw [← hp, buildVector_bit_hwmap, bne_iff_ne]
  · rw [seqStep_build hs, setSeq, setPv]

/-- Walking some of the cells sets the bits of their positions, and leaves the other bits. -/
theorem foldl_setBit_bit (hwmap : Equiv.Perm Index) (surf : Index → Byte) (p : Index) (cells : List Index) (v : Row) :
    (cells.foldl (fun v c => setBit v (hwmap c) (surf c != 0#8)) v).getLsbD p.val =
      if hwmap.symm p ∈ cells then surf (hwmap.symm p) != 0#8 else v.getLsbD p.val := by
  induction cells generalizing v with
  | nil => simp
  | cons c cells ih =>
    rw [List.foldl_cons, ih, setBit_bit]
    by_cases hc : hwmap.symm p = c
    · have hp : p = hwmap c := by rw [← hc, Equiv.apply_symm_apply]
      simp [hc, ← hp]
    · have hp : p ≠ hwmap c := fun h => hc (by rw [h, Equiv.symm_apply_apply])
      simp [hc, hp]

/-- The walk over all cells is `Build`: every position is met, whatever `PV` held. -/
theorem buildWalk_eq_buildVector (hwmap : Equiv.Perm Index) (surf : Index → Byte) (pv : Row) :
    buildWalk hwmap surf pv = buildVector hwmap surf := by
  refine Row.ext_index fun p => ?_
  rw [buildWalk, foldl_setBit_bit, buildVector_bit]
  simp only [List.mem_finRange, if_true]

/-! ### The pins and the chain (R112, R113, R116, R117) -/

theorem seqAfter_clkLow_last {i : Index} (h : i.val = 255) : Seq.after (.shift i .clkLow) = .latch .latHigh :=
  dif_neg (by omega)

theorem seqAfter_clkLow_next {i j : Index} (h : j.val = i.val + 1) :
    Seq.after (.shift i .clkLow) = .shift j .dataSet := by
  have hj : (⟨i.val + 1, by omega⟩ : Index) = j := Fin.ext h.symm
  rw [← hj]
  exact dif_pos (by omega)

/-- Every event is recorded, whether or not the level changes. -/
theorem drive_trace (p : Pin) (b : Bool) (s : State) : (drive p b s).trace = s.trace ++ [(p, b)] := by
  cases p <;> rfl

/-- Settles O37: the model's laws of the sequencer's steps, with the two places that may follow CLK_LOW. -/
theorem sequencerStepsDriveThePins : Obligations.SequencerStepsDriveThePins := by
  refine ⟨fun s i => ⟨seqStep_dataSet, seqStep_clkHigh, fun h hlast => ?_, fun j h hnext => ?_⟩,
    fun s => seqStep_latHigh, fun s => seqStep_latLow, fun s b => ⟨rfl, rfl, rfl, fun p => drive_trace p b s⟩⟩
  · rw [seqStep_clkLow h, seqAfter_clkLow_last hlast]
  · rw [seqStep_clkLow h, seqAfter_clkLow_next hnext]

theorem drive_clk_rising {s : State} (h : s.clk = false) : (drive .clk true s).sr = shiftIn s.sr s.data := by
  rw [drive_clk_sr, h]; rfl

theorem drive_lat_rising {s : State} (h : s.lat = false) : (drive .lat true s).out = s.sr := by
  rw [drive_lat_out, h]; rfl

/-- Settles O38: only a rising edge of `CLK` shifts, and what a shift puts into each stage is `shiftIn_bit`. -/
theorem risingClockShiftsTheChain : Obligations.RisingClockShiftsTheChain := by
  refine fun s => ⟨fun hlow => ⟨?_, fun k hk hk' => ?_⟩, fun hhigh => ?_, rfl, fun b => ⟨rfl, rfl⟩, fun b => rfl⟩
  · rw [drive_clk_rising hlow, shiftIn_bit _ _ (by omega), if_pos rfl]
  · rw [drive_clk_rising hlow, shiftIn_bit _ _ hk', if_neg (by omega)]
  · rw [drive_clk_sr, hhigh]; rfl

/-- Settles O39: only a rising edge of `LAT` copies. -/
theorem risingLatchCopiesTheChain : Obligations.RisingLatchCopiesTheChain := by
  refine fun s => ⟨fun hlow k _ => ?_, fun hhigh => ?_, rfl, fun b => rfl⟩
  · rw [drive_lat_rising hlow]
  · rw [drive_lat_out, hhigh]; rfl

/-! ### The shift steps (R112, R118) -/

/-- The shift steps of a frame touch `DATA`, `CLK`, `SR` and the trace, and nothing else. -/
theorem shiftBits_frame (s : State) {j : Nat} (hj : j ≤ 256) :
    (shiftBits j s).surface = s.surface ∧ (shiftBits j s).resets = s.resets ∧ (shiftBits j s).rot = s.rot ∧
    (shiftBits j s).level = s.level ∧ (shiftBits j s).duty = s.duty ∧ (shiftBits j s).phase = s.phase ∧
    (shiftBits j s).pv = s.pv ∧ (shiftBits j s).seq = s.seq ∧ (shiftBits j s).lat = s.lat ∧
    (shiftBits j s).out = s.out ∧ (shiftBits j s).cnt = s.cnt ∧ (shiftBits j s).commands = s.commands ∧
    (shiftBits j s).rstInputs = s.rstInputs ∧ (shiftBits j s).draws = s.draws := by
  induction j with
  | zero => simp [shiftBits_zero]
  | succ j ih =>
    rw [shiftBits_succ s hj]
    simp [shiftBit_frame, ih (by omega)]

/-- Every shift step ends with `CLK` low. -/
theorem shiftBits_clk {s : State} (h : s.clk = false) {j : Nat} (hj : j ≤ 256) : (shiftBits j s).clk = false := by
  cases j with
  | zero => exact h
  | succ j =>
    rw [shiftBits_succ s hj]
    simp [shiftBit_frame]

theorem shiftBits_sr_succ {s : State} (h : s.clk = false) {j : Nat} (hj : j < 256) :
    (shiftBits (j + 1) s).sr = shiftIn (shiftBits j s).sr (s.pv.getLsbD j) := by
  have hpv : (shiftBits j s).pv = s.pv := by simp [shiftBits_frame s hj.le]
  rw [shiftBits_succ s hj, shiftBit_sr _ (shiftBits_clk h hj.le), hpv]

/-- After j shift steps the first j stages hold the first j bits of `PV`, newest first, and the old contents follow. -/
theorem shiftBits_sr_bit {s : State} (h : s.clk = false) {j k : Nat} (hj : j ≤ 256) (hk : k < 256) :
    (shiftBits j s).sr.getLsbD k = if k < j then s.pv.getLsbD (j - 1 - k) else s.sr.getLsbD (k - j) := by
  induction j generalizing k with
  | zero => simp [shiftBits_zero]
  | succ j ih =>
    rw [shiftBits_sr_succ h hj, shiftIn_bit _ _ hk]
    cases k with
    | zero => simp
    | succ k =>
      have hprev := ih (k := k) (by omega) (by omega)
      simpa [show j - 1 - k = j - (k + 1) by omega] using hprev

/-! ### The whole command (R110, R121) -/

/-- The whole command, with its walk over the cells read as `Build`. -/
theorem renderWhole_eq (s : State) : renderWhole s =
    setSeq .idle (pulse .lat (shiftBits 256 (setPv (buildVector Config.hwmap (surfaceOf s)) s))) := by
  rw [renderWhole, renderWholeWith, buildWalk_eq_buildVector]

/-- The end of the command touches `SEQ`, `LAT`, `OUT` and the trace; these it leaves alone. -/
theorem latchPulse_frame (s : State) :
    (setSeq .idle (pulse .lat s)).surface = s.surface ∧ (setSeq .idle (pulse .lat s)).resets = s.resets ∧
    (setSeq .idle (pulse .lat s)).rot = s.rot ∧ (setSeq .idle (pulse .lat s)).level = s.level ∧
    (setSeq .idle (pulse .lat s)).duty = s.duty ∧ (setSeq .idle (pulse .lat s)).phase = s.phase ∧
    (setSeq .idle (pulse .lat s)).cnt = s.cnt ∧ (setSeq .idle (pulse .lat s)).commands = s.commands ∧
    (setSeq .idle (pulse .lat s)).rstInputs = s.rstInputs ∧ (setSeq .idle (pulse .lat s)).draws = s.draws ∧
    (setSeq .idle (pulse .lat s)).pv = s.pv ∧ (setSeq .idle (pulse .lat s)).data = s.data ∧
    (setSeq .idle (pulse .lat s)).clk = s.clk ∧ (setSeq .idle (pulse .lat s)).sr = s.sr := by
  simp [pulse]

/-- A pulse of `LAT` copies the stages into the latches. -/
theorem latchPulse_out {s : State} (h : s.lat = false) : (setSeq .idle (pulse .lat s)).out = s.sr := by
  simp [pulse, h]

/-- The whole command touches `PV`, `SEQ`, the pins, the chain and the trace; these it leaves alone. -/
theorem renderWhole_frame (s : State) :
    (renderWhole s).surface = s.surface ∧ (renderWhole s).resets = s.resets ∧ (renderWhole s).rot = s.rot ∧
    (renderWhole s).level = s.level ∧ (renderWhole s).duty = s.duty ∧ (renderWhole s).phase = s.phase ∧
    (renderWhole s).cnt = s.cnt ∧ (renderWhole s).commands = s.commands ∧
    (renderWhole s).rstInputs = s.rstInputs ∧ (renderWhole s).draws = s.draws := by
  rw [renderWhole_eq]
  simp only [latchPulse_frame, shiftBits_frame _ le_rfl]
  simp

theorem surfaceOf_renderWhole (s : State) : surfaceOf (renderWhole s) = surfaceOf s := by
  obtain ⟨hsurface, hresets, -⟩ := renderWhole_frame s
  exact surfaceOf_congr hsurface hresets

/-- The rising edge of `LAT` copies the chain as the 256 shift steps left it. -/
theorem renderWhole_out {s : State} (h : s.lat = false) :
    (renderWhole s).out = (shiftBits 256 (setPv (buildVector Config.hwmap (surfaceOf s)) s)).sr := by
  rw [renderWhole_eq, latchPulse_out]
  simp only [shiftBits_frame _ le_rfl, setPv_lat, h]

/-- After the whole command latch k holds the bit 255 - k of the vector of the surface, and nothing of the past. -/
theorem renderWhole_out_bit {s : State} (hclk : s.clk = false) (hlat : s.lat = false) (k : Index) :
    (renderWhole s).out.getLsbD k.val = (buildVector Config.hwmap (surfaceOf s)).getLsbD (255 - k.val) := by
  rw [renderWhole_out hlat, shiftBits_sr_bit (by exact hclk) le_rfl k.isLt, if_pos k.isLt, setPv_pv]

/-- What a RENDER shows is a function of the surface alone. -/
theorem renderWhole_out_congr {s u : State} (hclk : s.clk = false) (hlat : s.lat = false) (hclk' : u.clk = false)
    (hlat' : u.lat = false) (h : surfaceOf u = surfaceOf s) : (renderWhole u).out = (renderWhole s).out :=
  Row.ext_index fun k => by rw [renderWhole_out_bit hclk' hlat', renderWhole_out_bit hclk hlat, h]

/-- Settles O46: the command's frame, which gives `EN` too, and the latches as a function of the surface it leaves alone. -/
theorem renderFrame : Obligations.RenderFrame := by
  intro s
  obtain ⟨hsurface, -, hrot, hlevel, hduty, hphase, hcnt, -⟩ := renderWhole_frame s
  have hen : (renderWhole s).en = s.en := by rw [State.en, hcnt, hduty, State.en]
  refine ⟨hsurface, surfaceOf_renderWhole s, hrot, hlevel, hduty, hphase, hcnt, hen, ?_⟩
  intro hclk hlat u hclk' hlat' hsame
  exact renderWhole_out_congr hclk hlat hclk' hlat' (hsame.trans (surfaceOf_renderWhole s))

end Sys2Proof
end

section
/-!
Settles the family of the brightness path (spec/42_brightness_pwm.md). A clamped level and 255 less it both lie in 0 to 255,
so the bytes that SETBRIGHT writes hold them with nothing cut off.
-/

namespace Sys2Proof

open Sys2Proof.Machine

/-! ### The bytes of SETBRIGHT (R140, R141) -/

/-- A byte made of an integer that fits holds that integer. -/
theorem byte_ofInt_toNat {v : Int} (h : 0 ≤ v ∧ v ≤ 255) : ((BitVec.ofInt 8 v).toNat : Int) = v := by
  rw [BitVec.toNat_ofInt]
  omega

theorem clamp_mem_byte (v : Int) : 0 ≤ clamp v 0 255 ∧ clamp v 0 255 ≤ 255 := by
  unfold clamp
  split_ifs <;> omega

theorem levelByte_toNat (level : Int) : ((levelByte level).toNat : Int) = clamp level 0 255 :=
  byte_ofInt_toNat (clamp_mem_byte level)

theorem dutyByte_toNat (level : Int) : ((dutyByte level).toNat : Int) = 255 - clamp level 0 255 := by
  obtain ⟨hlow, hhigh⟩ := clamp_mem_byte level
  exact byte_ofInt_toNat ⟨by omega, by omega⟩

/-! ### SETBRIGHT and DSTEP -/

/-- Settles O23: SETBRIGHT is the update of `LEVEL` and `DUTY` with these two bytes. -/
theorem setBrightClampsAndInverts : Obligations.SetBrightClampsAndInverts :=
  fun s level => ⟨_, exec_setbright level s, levelByte_toNat level, dutyByte_toNat level, rfl⟩

/-- Settles O26: DSTEP is the update of `PHASE`, whose two bits wrap modulo 4. -/
theorem dStepAdvancesThePhase : Obligations.DStepAdvancesThePhase :=
  fun s => ⟨_, exec_dstep s, BitVec.toNat_add s.phase 1#2, rfl⟩

end Sys2Proof
end

section
/-!
Settles the family of the exceptions (spec/60_exceptions.md): the block has none. Every command's meaning is a next state,
and so is each of the four things one step can do.
-/

namespace Sys2Proof

open Sys2Proof.Machine

/-! ### Totality (R170) -/

/-- Every command is total, a SETPIXEL out of range and a level beyond the byte included. -/
theorem exec_continues (i : Instr) (s : State) : Continues (exec i s) := by
  cases i with
  | setpixel x y on => exact ⟨_, exec_setpixel x y on s⟩
  | clear => exact ⟨_, exec_clear s⟩
  | render => exact ⟨_, exec_render s⟩
  | setbright level => exact ⟨_, exec_setbright level s⟩
  | setrot r => exact ⟨_, exec_setrot r s⟩
  | dstep => exact ⟨_, exec_dstep s⟩

theorem step_continues (s : State) : Continues (step s) := by
  obtain ⟨-, hreset⟩ | ⟨w, i, t, -, -, -, hcommand⟩ | ⟨w, r, -, -, hreserved⟩ | ⟨-, -, hrun⟩ := step_cases s
  · exact ⟨_, hreset⟩
  · exact ⟨_, hcommand⟩
  · exact ⟨_, hreserved⟩
  · exact ⟨_, hrun⟩

/-- Settles O8: each command and each step answers a next state, and `Fault` has no constructor. -/
theorem everyCommandHasANextState : Obligations.EveryCommandHasANextState :=
  ⟨exec_continues, step_continues, ⟨nofun⟩⟩

end Sys2Proof
end

section
/-!
Settles the decoder and the encoder (spec/30_encoding.md R71 to R80). The word of a command is a sum of its fields, and so is
every word the decoder answers a command for; both round trips compare these sums.
-/

namespace Sys2Proof

open Sys2Proof.Machine

/-! ### Fields there and back (R71, R72) -/

theorem coordFits_iff (v : Int) : coordFits v = true ↔ -2048 ≤ v ∧ v ≤ 2047 := by
  simp [coordFits]

theorem levelFits_iff (v : Int) : levelFits v = true ↔ -32768 ≤ v ∧ v ≤ 32767 := by
  simp [levelFits]

theorem coordFits_toInt (b : BitVec 12) : coordFits b.toInt = true := by
  have := b.two_mul_toInt_lt
  have := b.le_two_mul_toInt
  rw [coordFits_iff]
  omega

theorem levelFits_toInt (b : BitVec 16) : levelFits b.toInt = true := by
  have := b.two_mul_toInt_lt
  have := b.le_two_mul_toInt
  rw [levelFits_iff]
  omega

/-- A coordinate that fits is read back from its field, whatever stands above the field. -/
theorem toInt_ofNat_coord {x : Int} (hx : coordFits x = true) (high : Nat) :
    (BitVec.ofNat 12 (2 ^ 12 * high + (BitVec.ofInt 12 x).toNat)).toInt = x := by
  have hlow : BitVec.ofNat 12 (2 ^ 12 * high + (BitVec.ofInt 12 x).toNat) = BitVec.ofInt 12 x := by
    apply BitVec.eq_of_toNat_eq
    rw [BitVec.toNat_ofNat, Nat.mul_add_mod, Nat.mod_eq_of_lt (BitVec.isLt _)]
  rw [hlow]
  rw [coordFits_iff] at hx
  exact BitVec.toInt_ofInt_eq_self (by decide) (by omega) (by omega)

/-- A level that fits is read back from its field, whatever stands above the field. -/
theorem toInt_ofNat_level {v : Int} (hv : levelFits v = true) (high : Nat) :
    (BitVec.ofNat 16 (2 ^ 16 * high + (BitVec.ofInt 16 v).toNat)).toInt = v := by
  have hlow : BitVec.ofNat 16 (2 ^ 16 * high + (BitVec.ofInt 16 v).toNat) = BitVec.ofInt 16 v := by
    apply BitVec.eq_of_toNat_eq
    rw [BitVec.toNat_ofNat, Nat.mul_add_mod, Nat.mod_eq_of_lt (BitVec.isLt _)]
  rw [hlow]
  rw [levelFits_iff] at hv
  exact BitVec.toInt_ofInt_eq_self (by decide) (by omega) (by omega)

/-! ### A command of the word's row (R73, R79) -/

/-- The command that the decoder reads from a word of a row. -/
def OpcodeRow.commandOf (r : OpcodeRow) (w : Word) : Instr :=
  if r = rowSetpixel then .setpixel (fieldX w) (fieldY w) (fieldF w)
  else if r = rowClear then .clear
  else if r = rowRender then .render
  else if r = rowSetbright then .setbright (fieldLevel w)
  else if r = rowSetrot then .setrot (fieldF w)
  else .dstep

theorem eq_commandOf_of_decode_ok {w : Word} {i : Instr} (h : decode w = .ok i) : i = i.row.commandOf w := by
  obtain ⟨-, hd⟩ | ⟨-, hd⟩ | ⟨-, hd⟩ | ⟨-, hd⟩ | ⟨-, -, hd⟩ | ⟨-, hd⟩ | ⟨-, -, -, -, -, -, hd⟩ := decode_cases w <;>
    cases h.symm.trans hd <;> rfl

/-- A word of a row decodes to the row's command, with the word's fields. -/
theorem decode_of_matches {w : Word} {r : OpcodeRow} (hr : r ∈ opcodeRows) (h : r.matches w = true) :
    decode w = .ok (r.commandOf w) := by
  obtain ⟨i, hi, rfl⟩ := (matches_iff_decode_row hr).1 h
  rw [← eq_commandOf_of_decode_ok hi, hi]

/-! ### The two round trips (R79) -/

theorem encode_setpixel_fields (w : Word) (h : w.toNat / 2 ^ 25 = 8) :
    encode (.setpixel (fieldX w) (fieldY w) (fieldF w)) = w := by
  apply BitVec.eq_of_toNat_eq
  rw [encode_setpixel_toNat, fieldX_eq, fieldY_eq, fieldF_eq, BitVec.ofInt_toInt, BitVec.ofInt_toInt, BitVec.toNat_ofNat,
    BitVec.toNat_ofNat]
  rcases Nat.mod_two_eq_zero_or_one (w.toNat / 2 ^ 24) with hf | hf <;> simp only [hf] <;> simp <;> omega

theorem encode_setbright_fields (w : Word) (h : w.toNat / 2 ^ 16 = 0x4000) :
    encode (.setbright (fieldLevel w)) = w := by
  apply BitVec.eq_of_toNat_eq
  rw [encode_setbright_toNat, fieldLevel_eq, BitVec.ofInt_toInt, BitVec.toNat_ofNat]
  omega

theorem encode_setrot_fields (w : Word) (h : w.toNat / 2 ^ 25 = 40) (hzero : w.toNat % 2 ^ 24 = 0) :
    encode (.setrot (fieldF w)) = w := by
  apply BitVec.eq_of_toNat_eq
  have hword : ∀ r, (encode (.setrot r)).toNat = 0x50000000 + r.toNat * 2 ^ 24 := by decide
  rw [hword, fieldF_eq]
  rcases Nat.mod_two_eq_zero_or_one (w.toNat / 2 ^ 24) with hf | hf <;> simp only [hf] <;> simp <;> omega

/-- A word that decodes to a command is the word of that command. -/
theorem encode_of_decode_ok {w : Word} {i : Instr} (h : decode w = .ok i) : encode i = w := by
  obtain ⟨hw, hd⟩ | ⟨hw, hd⟩ | ⟨hw, hd⟩ | ⟨hw, hd⟩ | ⟨hop, hzero, hd⟩ | ⟨hw, hd⟩ | ⟨-, -, -, -, -, -, hd⟩ :=
    decode_cases w <;> cases h.symm.trans hd
  · exact encode_setpixel_fields w hw
  · exact BitVec.eq_of_toNat_eq hw.symm
  · exact BitVec.eq_of_toNat_eq hw.symm
  · exact encode_setbright_fields w hw
  · exact encode_setrot_fields w hop hzero
  · exact BitVec.eq_of_toNat_eq hw.symm

/-- The operands of a decoded command fit their fields: they were read from them. -/
theorem wellFormed_of_decode_ok {w : Word} {i : Instr} (h : decode w = .ok i) : i.wellFormed = true := by
  obtain ⟨-, hd⟩ | ⟨-, hd⟩ | ⟨-, hd⟩ | ⟨-, hd⟩ | ⟨-, -, hd⟩ | ⟨-, hd⟩ | ⟨-, -, -, -, -, -, hd⟩ :=
    decode_cases w <;> cases h.symm.trans hd
  · exact Bool.and_eq_true_iff.2 ⟨coordFits_toInt _, coordFits_toInt _⟩
  · rfl
  · rfl
  · exact levelFits_toInt _
  · rfl
  · rfl

/-- The fields of a SETPIXEL's word are its operands. -/
theorem fields_encode_setpixel {x y : Int} (hx : coordFits x = true) (hy : coordFits y = true) (on : Bool) :
    fieldX (encode (.setpixel x y on)) = x ∧ fieldY (encode (.setpixel x y on)) = y ∧
      fieldF (encode (.setpixel x y on)) = on := by
  have hw := encode_setpixel_toNat x y on
  have hxlt := (BitVec.ofInt 12 x).isLt
  have hylt := (BitVec.ofInt 12 y).isLt
  have hon := on.toNat_lt
  refine ⟨?_, ?_, ?_⟩
  · have hhigh : (encode (.setpixel x y on)).toNat / 2 ^ 12 =
        2 ^ 12 * (16 + on.toNat) + (BitVec.ofInt 12 x).toNat := by omega
    rw [fieldX_eq, hhigh, toInt_ofNat_coord hx]
  · have hlow : (encode (.setpixel x y on)).toNat =
        2 ^ 12 * (0x10000 + on.toNat * 2 ^ 12 + (BitVec.ofInt 12 x).toNat) + (BitVec.ofInt 12 y).toNat := by omega
    rw [fieldY_eq, hlow, toInt_ofNat_coord hy]
  · have hflag : (encode (.setpixel x y on)).toNat / 2 ^ 24 % 2 = on.toNat := by omega
    rw [fieldF_eq, hflag]
    cases on <;> rfl

theorem fieldLevel_encode_setbright {level : Int} (h : levelFits level = true) :
    fieldLevel (encode (.setbright level)) = level := by
  rw [fieldLevel_eq, encode_setbright_toNat]
  exact toInt_ofNat_level h 0x4000

/-- The word of a command whose operands fit decodes to the command. -/
theorem decode_encode {i : Instr} (h : i.wellFormed = true) : decode (encode i) = .ok i := by
  cases i with
  | setpixel x y on =>
    obtain ⟨hx, hy⟩ := Bool.and_eq_true_iff.1 h
    obtain ⟨hfx, hfy, hff⟩ := fields_encode_setpixel hx hy on
    rw [decode_of_matches (Instr.row_mem_opcodeRows (.setpixel x y on)) (Laws.OwnRow.setpixel x y on)]
    show Except.ok (Instr.setpixel _ _ _) = _
    rw [hfx, hfy, hff]
  | clear => decide
  | render => decide
  | setbright level =>
    rw [decode_of_matches (Instr.row_mem_opcodeRows (.setbright level)) (Laws.OwnRow.setbright level)]
    show Except.ok (Instr.setbright _) = _
    rw [fieldLevel_encode_setbright h]
  | setrot r => cases r <;> decide
  | dstep => decide

/-! ### The spec's decoder (R79) -/

theorem decode?_eq_none_iff (w : Word) : decode? w = none ↔ ∃ r, decode w = .error r := by
  unfold decode?
  cases decode w <;> simp [Except.toOption]

/-- The decoder with its tests as R79 writes them: three masked ones, and three for one word only. -/
theorem decode?_eq (w : Word) : decode? w =
    if w &&& 0xFE000000#32 = 0x10000000#32 then some (.setpixel (fieldX w) (fieldY w) (fieldF w))
    else if w = 0x20000000#32 then some .clear
    else if w = 0x30000000#32 then some .render
    else if w &&& 0xFFFF0000#32 = 0x40000000#32 then some (.setbright (fieldLevel w))
    else if w &&& 0xFEFFFFFF#32 = 0x50000000#32 then some (.setrot (fieldF w))
    else if w = 0x60000000#32 then some .dstep
    else none := by
  have hfull : w &&& 0xFFFFFFFF#32 = w := BitVec.and_allOnes
  simp only [decode?, decode, OpcodeRow.matches_iff, rowSetpixel, rowClear, rowRender, rowSetbright, rowSetrot, rowDstep,
    hfull]
  split_ifs <;> rfl

/-- Settles O2: the decoder's tests are R79's, and the two round trips. -/
theorem decodeAndEncodeAgree : Obligations.DecodeAndEncodeAgree :=
  ⟨decode?_eq, fun _ _ h => ⟨encode_of_decode_ok h, wellFormed_of_decode_ok h⟩, fun _ => decode_encode⟩

/-! ### Reserved words (R74) -/

theorem decode?_eq_none_iff_no_row (w : Word) : decode? w = none ↔ ∀ r ∈ opcodeRows, ¬ r.matches w = true := by
  rw [decode?_eq_none_iff]
  obtain ⟨i, hi, hm⟩ | ⟨hd, hnone⟩ := decode_row_cases w
  · exact ⟨fun ⟨_, he⟩ => (nomatch hi.symm.trans he), fun hnone => absurd hm (hnone _ i.row_mem_opcodeRows)⟩
  · exact ⟨fun _ => hnone, fun _ => ⟨_, hd⟩⟩

/-- The tests of the rows that a reserved word fails, in numbers. -/
theorem decode?_eq_none_iff_toNat (w : Word) : decode? w = none ↔
    w.toNat / 2 ^ 25 ≠ 8 ∧ w.toNat ≠ 0x20000000 ∧ w.toNat ≠ 0x30000000 ∧ w.toNat / 2 ^ 16 ≠ 0x4000 ∧
      ¬ (w.toNat / 2 ^ 25 = 40 ∧ w.toNat % 2 ^ 24 = 0) ∧ w.toNat ≠ 0x60000000 := by
  simp only [decode?_eq_none_iff_no_row, opcodeRows, List.forall_mem_cons, matches_setpixel_iff, matches_clear_iff,
    matches_render_iff, matches_setbright_iff, matches_setrot_iff, matches_dstep_iff, List.not_mem_nil, false_imp_iff,
    implies_true, and_true, Ne]

/-- A must-be-zero field of a word holds a 1 exactly when its number is not 0. -/
theorem extractLsb_ne_zero_iff (w : Word) (hi lo : Nat) :
    w.extractLsb hi lo ≠ 0#(hi - lo + 1) ↔ w.toNat / 2 ^ lo % 2 ^ (hi - lo + 1) ≠ 0 := by
  rw [Ne, ← BitVec.toNat_inj, BitVec.extractLsb_toNat, Nat.shiftRight_eq_div_pow]
  simp

/-- The words that decode to nothing are those of R74: by `op`, or by a must-be-zero field that holds a 1. -/
theorem decode?_eq_none_iff_reserved (w : Word) : decode? w = none ↔
    (let op := (w.extractLsb 31 28).toNat
     (op = 0 ∨ 7 ≤ op) ∨
     (op = 1 ∧ w.extractLsb 27 25 ≠ 0#3) ∨
     ((op = 2 ∨ op = 3 ∨ op = 6) ∧ w.extractLsb 27 0 ≠ 0#28) ∨
     (op = 4 ∧ w.extractLsb 27 16 ≠ 0#12) ∨
     (op = 5 ∧ (w.extractLsb 27 25 ≠ 0#3 ∨ w.extractLsb 23 0 ≠ 0#24))) := by
  have hlt := w.isLt
  have hop : (w.extractLsb 31 28).toNat = w.toNat / 2 ^ 28 := by
    rw [BitVec.extractLsb_toNat, Nat.shiftRight_eq_div_pow]
    omega
  have h27_25 := extractLsb_ne_zero_iff w 27 25
  have h27_0 := extractLsb_ne_zero_iff w 27 0
  have h27_16 := extractLsb_ne_zero_iff w 27 16
  have h23_0 := extractLsb_ne_zero_iff w 23 0
  norm_num only at h27_25 h27_0 h27_16 h23_0
  have hsetpixel : w.toNat / 2 ^ 25 = 8 ↔ w.toNat / 2 ^ 28 = 1 ∧ w.toNat / 2 ^ 25 % 8 = 0 := by omega
  have hclear : w.toNat = 0x20000000 ↔ w.toNat / 2 ^ 28 = 2 ∧ w.toNat % 2 ^ 28 = 0 := by omega
  have hrender : w.toNat = 0x30000000 ↔ w.toNat / 2 ^ 28 = 3 ∧ w.toNat % 2 ^ 28 = 0 := by omega
  have hdstep : w.toNat = 0x60000000 ↔ w.toNat / 2 ^ 28 = 6 ∧ w.toNat % 2 ^ 28 = 0 := by omega
  have hsetbright : w.toNat / 2 ^ 16 = 0x4000 ↔ w.toNat / 2 ^ 28 = 4 ∧ w.toNat / 2 ^ 16 % 2 ^ 12 = 0 := by omega
  have hsetrot : w.toNat / 2 ^ 25 = 40 ↔ w.toNat / 2 ^ 28 = 5 ∧ w.toNat / 2 ^ 25 % 8 = 0 := by omega
  rw [decode?_eq_none_iff_toNat, hop]
  simp only [h27_25, h27_0, h27_16, h23_0, Ne, hsetpixel, hclear, hrender, hsetbright, hsetrot, hdstep]
  norm_num only
  generalize w.toNat / 268435456 = op
  have hops : 7 ≤ op ∨ op = 0 ∨ op = 1 ∨ op = 2 ∨ op = 3 ∨ op = 4 ∨ op = 5 ∨ op = 6 := by omega
  rcases hops with hnone | rfl | rfl | rfl | rfl | rfl | rfl | rfl
  · omega
  all_goals simp [imp_iff_not_or]

/-! ### The worked words and the assembler (R76, R78) -/

/-- Settles O1: eleven fixed words, evaluated. -/
theorem workedWordsDecodeAndEncode : Obligations.WorkedWordsDecodeAndEncode := by
  unfold Obligations.WorkedWordsDecodeAndEncode
  decide

/-- Settles O6: the assembler tests that the operands fit, and then the word decodes to the command. -/
theorem assemblerRefusesWhatDoesNotFit : Obligations.AssemblerRefusesWhatDoesNotFit := by
  refine ⟨fun i h => ?_, fun i h => ⟨encode i, ?_, decode_encode h⟩⟩
  · simp [assembleInstr, h]
  · simp [assembleInstr, h]

end Sys2Proof
end

section
/-!
Settles the command port, the step and reset (spec/10_state.md R33, R38, R39; spec/60_exceptions.md R173; spec/70 R190). The
block and what runs beside it are told apart once: a step without reset performs a command, ignores a word, or takes one step
of the sequencer, each on the block alone, and beside it only the host's lists, `CNT` and the number of the step move.
-/

namespace Sys2Proof

open Sys2Proof.Machine

/-! ### The block and what runs beside it -/

/-- The block as in `s`, with the host's lists, the PWM counter and the step number of `e`. -/
def withEnv (e s : State) : State :=
  { s with cnt := e.cnt, commands := e.commands, rstInputs := e.rstInputs, draws := e.draws }

section
variable (e s : State)

@[simp] theorem withEnv_surface : (withEnv e s).surface = s.surface := rfl
@[simp] theorem withEnv_rot : (withEnv e s).rot = s.rot := rfl
@[simp] theorem withEnv_level : (withEnv e s).level = s.level := rfl
@[simp] theorem withEnv_duty : (withEnv e s).duty = s.duty := rfl
@[simp] theorem withEnv_phase : (withEnv e s).phase = s.phase := rfl
@[simp] theorem withEnv_pv : (withEnv e s).pv = s.pv := rfl
@[simp] theorem withEnv_seq : (withEnv e s).seq = s.seq := rfl
@[simp] theorem withEnv_data : (withEnv e s).data = s.data := rfl
@[simp] theorem withEnv_clk : (withEnv e s).clk = s.clk := rfl
@[simp] theorem withEnv_lat : (withEnv e s).lat = s.lat := rfl
@[simp] theorem withEnv_cnt : (withEnv e s).cnt = e.cnt := rfl
@[simp] theorem withEnv_sr : (withEnv e s).sr = s.sr := rfl
@[simp] theorem withEnv_out : (withEnv e s).out = s.out := rfl
@[simp] theorem withEnv_trace : (withEnv e s).trace = s.trace := rfl
@[simp] theorem withEnv_commands : (withEnv e s).commands = e.commands := rfl
@[simp] theorem withEnv_rstInputs : (withEnv e s).rstInputs = e.rstInputs := rfl
@[simp] theorem withEnv_resets : (withEnv e s).resets = s.resets := rfl
@[simp] theorem withEnv_draws : (withEnv e s).draws = e.draws := rfl
@[simp] theorem surfaceOf_withEnv : surfaceOf (withEnv e s) = surfaceOf s := surfaceOf_congr rfl rfl
@[simp] theorem withEnv_withEnv (e' : State) : withEnv e (withEnv e' s) = withEnv e s := rfl

theorem hostNext_eq_withEnv : hostNext s = withEnv (hostNext s) s := rfl

theorem hostHold_eq_withEnv : hostHold s = withEnv (hostHold s) s := by
  rw [hostHold_eq]; rfl

theorem freeRun_eq_withEnv : freeRun s = withEnv (freeRun s) s := rfl

end

/-! ### Every command, on the block -/

theorem exec_setpixel_next {s t : State} {x y : Int} {on : Bool} (h : exec (.setpixel x y on) s = .next t) :
    (∃ c, pixelCell? s.rot x y = some c ∧ t = setCell c (pixelByte on s.level) s) ∨
    (pixelCell? s.rot x y = none ∧ t = s) := by
  cases hc : pixelCell? s.rot x y with
  | some c => cases (exec_setpixel_of_some hc on).symm.trans h; exact .inl ⟨c, rfl, rfl⟩
  | none => cases (exec_setpixel_of_none hc on).symm.trans h; exact .inr ⟨rfl, rfl⟩

/-- No command touches these in its own step. -/
theorem exec_frame {i : Instr} {s t : State} (h : exec i s = .next t) :
    t.pv = s.pv ∧ t.data = s.data ∧ t.clk = s.clk ∧ t.lat = s.lat ∧ t.cnt = s.cnt ∧ t.sr = s.sr ∧ t.out = s.out ∧
      t.trace = s.trace ∧ t.commands = s.commands ∧ t.rstInputs = s.rstInputs ∧ t.resets = s.resets ∧
      t.draws = s.draws := by
  cases i with
  | setpixel x y on => obtain ⟨c, -, rfl⟩ | ⟨-, rfl⟩ := exec_setpixel_next h <;> simp
  | clear => cases h; simp
  | render => cases h; simp
  | setbright level => cases h; simp
  | setrot r => cases h; simp
  | dstep => cases h; simp

/-- Only a RENDER moves the sequencer. -/
theorem exec_seq {i : Instr} {s t : State} (h : exec i s = .next t) :
    t.seq = s.seq ∨ (i = .render ∧ t = setSeq .build s) := by
  cases i with
  | setpixel x y on => obtain ⟨c, -, rfl⟩ | ⟨-, rfl⟩ := exec_setpixel_next h <;> simp
  | clear => cases h; simp
  | render => cases h; exact .inr ⟨rfl, rfl⟩
  | setbright level => cases h; simp
  | setrot r => cases h; simp
  | dstep => cases h; simp

/-- A command sees nothing of what runs beside the block. -/
theorem exec_withEnv {i : Instr} {s t : State} (e : State) (h : exec i s = .next t) :
    exec i (withEnv e s) = .next (withEnv e t) := by
  cases i with
  | setpixel x y on =>
    obtain ⟨c, hc, rfl⟩ | ⟨hc, rfl⟩ := exec_setpixel_next h
    · exact exec_setpixel_of_some (s := withEnv e s) hc on
    · exact exec_setpixel_of_none (s := withEnv e t) hc on
  | clear => cases h; rfl
  | render => cases h; rfl
  | setbright level => cases h; rfl
  | setrot r => cases h; rfl
  | dstep => cases h; rfl

/-- A change to the state that leaves alone what the sequencer reads, and that its updates leave alone, comes to the same
before and after a step of the sequencer. -/
theorem seqStep_comm (f : State → State) (hseq : ∀ s, (f s).seq = s.seq) (hpv : ∀ s, (f s).pv = s.pv)
    (hsurface : ∀ s, surfaceOf (f s) = surfaceOf s) (hsetSeq : ∀ q s, setSeq q (f s) = f (setSeq q s))
    (hsetPv : ∀ v s, setPv v (f s) = f (setPv v s)) (hdrive : ∀ p b s, drive p b (f s) = f (drive p b s)) (s : State) :
    seqStep (f s) = f (seqStep s) := by
  rcases h : s.seq with _ | _ | ⟨i, _ | _ | _⟩ | ⟨_ | _⟩
  · rw [seqStep_idle h, seqStep_idle ((hseq s).trans h)]
  · rw [seqStep_build h, seqStep_build ((hseq s).trans h), hsurface, hsetPv, hsetSeq]
  · rw [seqStep_dataSet h, seqStep_dataSet ((hseq s).trans h), hpv, hdrive, hsetSeq]
  · rw [seqStep_clkHigh h, seqStep_clkHigh ((hseq s).trans h), hdrive, hsetSeq]
  · rw [seqStep_clkLow h, seqStep_clkLow ((hseq s).trans h), hdrive, hsetSeq]
  · rw [seqStep_latHigh h, seqStep_latHigh ((hseq s).trans h), hdrive, hsetSeq]
  · rw [seqStep_latLow h, seqStep_latLow ((hseq s).trans h), hdrive, hsetSeq]

theorem drive_withEnv (p : Pin) (b : Bool) (e s : State) : drive p b (withEnv e s) = withEnv e (drive p b s) := by
  cases p <;> rfl

/-- The sequencer sees nothing of what runs beside the block. -/
theorem seqStep_withEnv (e s : State) : seqStep (withEnv e s) = withEnv e (seqStep s) :=
  seqStep_comm (withEnv e) (fun _ => rfl) (fun _ => rfl) (surfaceOf_withEnv e) (fun _ _ => rfl) (fun _ _ => rfl)
    (fun p b s => drive_withEnv p b e s) s

theorem seqStep_iterate_withEnv (n : Nat) (e s : State) : seqStep^[n] (withEnv e s) = withEnv e (seqStep^[n] s) :=
  (Function.Semiconj.iterate_right (fun s => (seqStep_withEnv e s).symm) n s).symm

/-- A step that accepts nothing is, on the block, one step of the sequencer. -/
theorem runOn_block (s : State) :
    freeRun (seqStep (hostHold s)) = withEnv (freeRun (seqStep (hostHold s))) (seqStep s) := by
  conv_lhs => rw [freeRun_eq_withEnv]
  conv_lhs => arg 2; rw [hostHold_eq_withEnv, seqStep_withEnv]
  rfl

/-! ### One step -/

theorem busy_eq_false_iff (s : State) : s.busy = false ↔ s.seq = .idle := by
  simp [State.busy]

theorem cmdReady_eq_false_iff (s : State) : s.cmdReady = false ↔ s.busy = true := by
  simp [State.cmdReady]

theorem seq_idle_of_accepts {s : State} {w : Word} (h : Accepts s w) : s.seq = .idle :=
  (cmdReady_iff s).1 h.2.1

/-- Everything that a step can have done when it answers t. -/
theorem step_next_cases {s t : State} (h : step s = .next t) :
    (s.rstPin = true ∧ t = takeReset (hostReset s)) ∨
    (∃ w i u, Accepts s w ∧ decode w = .ok i ∧ exec i (hostNext s) = .next u ∧ t = freeRun u) ∨
    (∃ w r, Accepts s w ∧ decode w = .error r ∧ t = freeRun (hostNext s)) ∨
    (s.rstPin = false ∧ (s.cmdReady = false ∨ s.cmdWord? = none) ∧ t = freeRun (seqStep (hostHold s))) := by
  obtain ⟨hr, hs⟩ | ⟨w, i, u, ha, hd, hu, hs⟩ | ⟨w, r, ha, hd, hs⟩ | ⟨hr, hw, hs⟩ := step_cases s <;>
    cases hs.symm.trans h
  · exact .inl ⟨hr, rfl⟩
  · exact .inr (.inl ⟨w, i, u, ha, hd, hu, rfl⟩)
  · exact .inr (.inr (.inl ⟨w, r, ha, hd, rfl⟩))
  · exact .inr (.inr (.inr ⟨hr, hw, rfl⟩))

/-- A step that accepts a command's word performs the command on the block. -/
theorem step_command {s u : State} {w : Word} {i : Instr} (ha : Accepts s w) (hd : decode w = .ok i)
    (hu : exec i s = .next u) : ∃ e, step s = .next (withEnv e u) := by
  refine ⟨freeRun (withEnv (hostNext s) u), ?_⟩
  rw [step_accept ha, accept_command hd, hostNext_eq_withEnv, exec_withEnv _ hu]
  rfl

/-- A step that accepts a reserved word does nothing to the block. -/
theorem step_reserved {s : State} {w : Word} {r : Reserved} (ha : Accepts s w) (hd : decode w = .error r) :
    ∃ e, step s = .next (withEnv e s) :=
  ⟨freeRun (hostNext s), by rw [step_accept ha, accept_reserved hd]; rfl⟩

/-- A step that accepts nothing takes one step of the sequencer on the block. -/
theorem step_sequencer {s : State} (hrst : s.rstPin = false) (h : s.cmdReady = false ∨ s.cmdWord? = none) :
    ∃ e, step s = .next (withEnv e (seqStep s)) :=
  ⟨freeRun (seqStep (hostHold s)), by rw [step_runOn hrst h, ← runOn_block]⟩

/-- What a step without reset does to the block: a command, nothing for a reserved word, or one place of the sequencer. -/
theorem step_block {s t : State} (hrst : s.rstPin = false) (h : step s = .next t) :
    (∃ w i u e, Accepts s w ∧ decode w = .ok i ∧ exec i s = .next u ∧ t = withEnv e u) ∨
    (∃ w r e, Accepts s w ∧ decode w = .error r ∧ t = withEnv e s) ∨
    (∃ e, (s.cmdReady = false ∨ s.cmdWord? = none) ∧ t = withEnv e (seqStep s)) := by
  obtain ⟨hr, -⟩ | ⟨w, i, -, ha, hd, -⟩ | ⟨w, r, ha, hd, -⟩ | ⟨-, hw, -⟩ := step_next_cases h
  · exact absurd (hrst.symm.trans hr) (by decide)
  · obtain ⟨u, hu⟩ := exec_continues i s
    obtain ⟨e, he⟩ := step_command ha hd hu
    cases he.symm.trans h
    exact .inl ⟨w, i, u, e, ha, hd, hu, rfl⟩
  · obtain ⟨e, he⟩ := step_reserved ha hd
    cases he.symm.trans h
    exact .inr (.inl ⟨w, r, e, ha, hd, rfl⟩)
  · obtain ⟨e, he⟩ := step_sequencer hrst hw
    cases he.symm.trans h
    exact .inr (.inr ⟨e, hw, rfl⟩)

/-- A step without reset lets `CNT` make the step's free number of ticks. -/
theorem step_cnt {s t : State} (hrst : s.rstPin = false) (h : step s = .next t) :
    t.cnt = cntAfter Config.pwmPeriod (Config.pwmTicks s.draws) s.cnt := by
  obtain ⟨hr, -⟩ | ⟨w, i, u, -, -, hu, rfl⟩ | ⟨w, r, -, -, rfl⟩ | ⟨-, -, rfl⟩ := step_next_cases h
  · exact absurd (hrst.symm.trans hr) (by decide)
  · obtain ⟨-, -, -, -, hcnt, -, -, -, -, -, -, hdraws⟩ := exec_frame hu
    rw [freeRun_cnt, hcnt, hdraws]; rfl
  · rfl
  · rw [freeRun_cnt, hostHold_eq_withEnv, seqStep_withEnv, hostHold_eq]; rfl

/-- In every step the host goes on at `rst` by one entry. -/
theorem step_rstInputs {s t : State} (h : step s = .next t) : t.rstInputs = s.rstInputs.next := by
  obtain ⟨-, rfl⟩ | ⟨w, i, u, -, -, hu, rfl⟩ | ⟨w, r, -, -, rfl⟩ | ⟨-, -, rfl⟩ := step_next_cases h
  · rw [takeReset_rstInputs, hostReset_eq]
  · obtain ⟨-, -, -, -, -, -, -, -, -, hinputs, -⟩ := exec_frame hu
    rw [freeRun_rstInputs, hinputs, hostNext_rstInputs]
  · rfl
  · rw [freeRun_rstInputs, hostHold_eq_withEnv, seqStep_withEnv, hostHold_eq]; rfl

/-- In a step without reset the host keeps a word that it presents to a busy block, and else goes on at the command port. -/
theorem step_commands {s t : State} (hrst : s.rstPin = false) (h : step s = .next t) :
    t.commands = if s.busy && s.cmdValid then s.commands else s.commands.next := by
  obtain ⟨hr, -⟩ | ⟨w, i, u, ha, -, hu, rfl⟩ | ⟨w, r, ha, -, rfl⟩ | ⟨-, hw, rfl⟩ := step_next_cases h
  · exact absurd (hrst.symm.trans hr) (by decide)
  · obtain ⟨-, -, -, -, -, -, -, -, hcommands, -⟩ := exec_frame hu
    rw [freeRun_commands, hcommands, (busy_eq_false_iff s).2 (seq_idle_of_accepts ha)]; rfl
  · rw [(busy_eq_false_iff s).2 (seq_idle_of_accepts ha)]; rfl
  · rw [freeRun_commands, hostHold_eq_withEnv, seqStep_withEnv, withEnv_commands, hostHold_eq]
    rcases hw with hready | hnone
    · rw [(cmdReady_eq_false_iff s).1 hready, Bool.true_and]
    · simp [State.cmdValid, hnone]

/-! ### The command port (R33, R58, R74, R80, R173) -/

/-- Settles O4: which words no row's test holds of, and the step that ignores them. -/
theorem reservedWordIsIgnored : Obligations.ReservedWordIsIgnored := by
  refine ⟨decode?_eq_none_iff_reserved, fun s cw ha hd => ?_⟩
  obtain ⟨r, hr⟩ := (decode?_eq_none_iff cw).1 hd
  exact ⟨freeRun (hostNext s), by rw [step_accept ha, accept_reserved hr], rfl⟩

/-- Settles O7: acceptance of a word that decodes, whose command is well-formed. -/
theorem stepPerformsTheAcceptedCommand : Obligations.StepPerformsTheAcceptedCommand := by
  refine fun s w i ha hd => ⟨wellFormed_of_decode_ok hd, ?_⟩
  obtain ⟨t, ht⟩ := exec_continues i (hostNext s)
  exact ⟨t, ht, by rw [step_accept ha, accept_command hd, ht]; rfl⟩

/-- Settles O9: a busy block runs on, and the host holds what it presents. -/
theorem wordIsHeldWhileBusy : Obligations.WordIsHeldWhileBusy := by
  intro s hbusy hrst
  obtain ⟨e, hstep⟩ := step_sequencer hrst (.inl ((cmdReady_eq_false_iff s).2 hbusy))
  have hcommands := step_commands hrst hstep
  rw [hbusy, Bool.true_and] at hcommands
  obtain ⟨hsurface, -, hrot, hlevel, hduty, hphase, -⟩ := seqStep_frame s
  refine ⟨_, hstep, seqStep_seq s, hsurface, hrot, hlevel, hduty, hphase, step_rstInputs hstep, fun w hw => ?_,
    fun hw => ?_⟩
  · rw [State.cmdValid, hw] at hcommands
    exact ⟨hcommands, by rw [State.cmdWord?, hcommands]; exact hw⟩
  · rw [State.cmdValid, hw] at hcommands
    exact hcommands

/-- Settles O10: with nothing presented and nothing to do, the host alone goes on. -/
theorem idleBlockWaits : Obligations.IdleBlockWaits := by
  intro s hidle hrst hword
  have hhost : hostHold s = hostNext s := by rw [hostHold, State.cmdValid, hword]; rfl
  have hseq : (hostNext s).seq = .idle := (busy_eq_false_iff s).1 hidle
  refine ⟨freeRun (hostNext s), ?_, rfl⟩
  rw [step_runOn hrst (.inr hword), hhost, seqStep_idle hseq]

/-- Settles O11: the three things that a step can do while a word is presented. -/
theorem wordsAreAcceptedInOrder : Obligations.WordsAreAcceptedInOrder := by
  intro s t w hword h
  refine ⟨step_rstInputs h, ?_⟩
  cases hrst : s.rstPin with
  | true =>
    refine .inr (.inr ⟨rfl, fun ha => absurd (hrst.symm.trans ha.1) (by decide), ?_⟩)
    cases (step_reset hrst).symm.trans h
    rw [takeReset_commands, hostReset_eq]
    simp [State.cmdValid, hword]
  | false =>
    have hcommands := step_commands hrst h
    cases hbusy : s.busy with
    | true =>
      rw [hbusy, State.cmdValid, hword] at hcommands
      exact .inl ⟨rfl, rfl, hcommands, by rw [State.cmdWord?, hcommands]; exact hword⟩
    | false =>
      rw [hbusy] at hcommands
      exact .inr (.inl ⟨rfl, rfl, ⟨hrst, (cmdReady_iff s).2 ((busy_eq_false_iff s).1 hbusy), hword⟩, hcommands⟩)

/-! ### Reset (R39, R173, R190, R191) -/

/-- Settles O12: the reset state's fields, and the range of its counter. -/
theorem resetValues : Obligations.ResetValues :=
  ⟨rfl, rfl, rfl, rfl, rfl, rfl, rfl, rfl, resetCnt_lt 0⟩

/-- Settles O13: a reset step takes the reset values, whose free ones depend on the number of the reset alone. -/
theorem resetWinsInEveryState : Obligations.ResetWinsInEveryState := by
  intro s hrst
  refine ⟨_, step_reset hrst, rfl, rfl, rfl, rfl, rfl, rfl, rfl, rfl, resetCnt_lt _, rfl, step_rstInputs (step_reset hrst),
    fun u hu hresets => ⟨_, step_reset hu, ?_⟩⟩
  have hsame : (hostReset u).resets = (hostReset s).resets := by rw [hostReset_eq, hostReset_eq]; exact hresets
  refine ⟨surfaceOf_congr rfl (congrArg (· + 1) hsame), ?_, ?_, ?_, ?_, ?_, ?_⟩ <;> simp [hsame]

end Sys2Proof
end

section
/-!
Settles what is left of the surface commands, the brightness path and the PWM generator (spec/40_surface_ops.md R93 to R95;
spec/42_brightness_pwm.md). The counter is computed once: n ticks add n modulo the period.
-/

namespace Sys2Proof

open Sys2Proof.Machine

/-! ### SETPIXEL, CLEAR and SETROT (R55, R56, R93, R95) -/

theorem setCell_setCell (c : Nat) (v w : Byte) (s : State) : setCell c w (setCell c v s) = setCell c w s := by
  simp only [setCell, Memory.set_set]

/-- Settles O17: a SETPIXEL is one store, whose other cells and whose form the laws of the memory keep, or nothing. -/
theorem setPixelFrame : Obligations.SetPixelFrame := by
  intro s t x y on h
  obtain ⟨d, hd, rfl⟩ | ⟨hnone, rfl⟩ := exec_setpixel_next h
  · refine ⟨rfl, fun c hc => ?_, fun c hc => ?_, fun hwf => Memory.set_wf hwf (pixelCell?_lt hd) _⟩
    · rw [cellByte_setCell, if_neg]
      rintro rfl
      exact hc hd
    · obtain rfl : d = c := Option.some.inj (hd.symm.trans hc)
      exact ⟨pixelCell?_lt hd, by rw [cellByte_setCell, if_pos rfl]⟩
  · exact ⟨rfl, fun _ _ => rfl, fun c hc => (nomatch hnone.symm.trans hc), id⟩

/-- With ROT = 1 a pixel goes to 255 less its cell with ROT = 0. -/
theorem pixelCell?_rotated (x y : Int) : pixelCell? true x y = (pixelCell? false x y).map fun c => 255 - c := by
  by_cases hin : 0 ≤ x ∧ x ≤ 15 ∧ 0 ≤ y ∧ y ≤ 15
  · obtain ⟨c, hc, hturned⟩ := pixelCell?_of_inRange true hin
    obtain ⟨d, hd, hplain⟩ := pixelCell?_of_inRange false hin
    simp only [if_true, if_false, Bool.false_eq_true] at hturned hplain
    rw [hc, hd, Option.map_some, Option.some.injEq]
    omega
  · rw [(pixelCell?_eq_none_iff true x y).2 hin, (pixelCell?_eq_none_iff false x y).2 hin, Option.map_none]

theorem rotateCoord_involutive : Function.Involutive (rotateCoord true) := fun v => by
  simp [rotateCoord]

theorem coordInRange_rotateCoord (v : Int) : coordInRange (rotateCoord true v) = coordInRange v := by
  rw [Bool.eq_iff_iff]
  simp only [coordInRange, rotateCoord, if_true, Bool.and_eq_true, decide_eq_true_eq]
  omega

/-- Settles O18: 15 less 15 less a coordinate, and the cells of both rotations. -/
theorem rotationIsAnInvolution : Obligations.RotationIsAnInvolution := by
  refine ⟨fun v => ⟨rotateCoord_involutive v, rfl⟩, coordInRange_rotateCoord, pixelCell?_rotated, fun x y => ?_⟩
  simp only [pixelCell?, coordInRange_rotateCoord, rotateCoord_involutive _]
  rfl

/-- Settles O19: both name one cell, as ROT and LEVEL are not touched, and of two stores to it the later stands. -/
theorem laterSetPixelStands : Obligations.LaterSetPixelStands := by
  intro s t x y on on' h
  obtain ⟨c, hc, rfl⟩ | ⟨-, rfl⟩ := exec_setpixel_next h
  · rw [exec_setpixel_of_some hc, exec_setpixel_of_some (s := setCell c _ s) hc, setCell_setCell]; rfl
  · rfl

/-- Settles O22: each of the three commands is one update, of the surface or of ROT. -/
theorem surfaceCommandsLeaveTheOutputsAlone : Obligations.SurfaceCommandsLeaveTheOutputsAlone := by
  rintro i s t (⟨x, y, on, rfl⟩ | rfl | ⟨r, rfl⟩) h
  · obtain ⟨-, -, -, hwf⟩ := setPixelFrame s t x y on h
    obtain ⟨c, -, rfl⟩ | ⟨-, rfl⟩ := exec_setpixel_next h
    · exact ⟨rfl, rfl, rfl, rfl, rfl, rfl, rfl, rfl, rfl, rfl, rfl, rfl, rfl, hwf, nofun⟩
    · exact ⟨rfl, rfl, rfl, rfl, rfl, rfl, rfl, rfl, rfl, rfl, rfl, rfl, rfl, hwf, nofun⟩
  · cases h
    have hwf := Memory.fill_wf 0#8
    exact ⟨rfl, rfl, rfl, rfl, rfl, rfl, rfl, rfl, rfl, rfl, rfl, rfl, rfl, fun _ => hwf, fun _ => hwf⟩
  · cases h
    exact ⟨rfl, rfl, rfl, rfl, rfl, rfl, rfl, rfl, rfl, rfl, rfl, rfl, rfl, id, nofun⟩

/-! ### SETBRIGHT and DSTEP (R40, R141, R152) -/

/-- Settles O24: the duty byte is 255 less the level byte, so each is the other's complement. -/
theorem dutyIsTheComplementOfLevel : Obligations.DutyIsTheComplementOfLevel := by
  have hclamp (b : Byte) : clamp b.toNat 0 255 = b.toNat := by
    have := b.isLt
    unfold clamp
    split_ifs <;> omega
  refine ⟨fun level => ?_, fun b => ⟨?_, ?_⟩⟩
  · have hl := levelByte_toNat level
    have hd := dutyByte_toNat level
    apply BitVec.eq_of_toNat_eq
    rw [BitVec.toNat_not]
    omega
  · apply BitVec.eq_of_toNat_eq
    have hl := levelByte_toNat b.toNat
    rw [hclamp] at hl
    exact_mod_cast hl
  · apply BitVec.eq_of_toNat_eq
    have hd := dutyByte_toNat (dutyByte b.toNat).toNat
    have hd' := dutyByte_toNat b.toNat
    rw [hclamp] at hd hd'
    omega

theorem dutyMatchesLevel_setBrightness (level : Int) (s : State) :
    DutyMatchesLevel (setBrightness (levelByte level) (dutyByte level) s) := by
  have hl := levelByte_toNat level
  have hd := dutyByte_toNat level
  show (dutyByte level).toNat = 255 - (levelByte level).toNat
  omega

/-- Every command keeps the relation, SETBRIGHT by making it anew. -/
theorem exec_keeps_dutyMatchesLevel {i : Instr} {s t : State} (hs : DutyMatchesLevel s) (h : exec i s = .next t) :
    DutyMatchesLevel t := by
  cases i with
  | setpixel x y on => obtain ⟨c, -, rfl⟩ | ⟨-, rfl⟩ := exec_setpixel_next h <;> exact hs
  | setbright level => cases h; exact dutyMatchesLevel_setBrightness level s
  | clear => cases h; exact hs
  | render => cases h; exact hs
  | setrot r => cases h; exact hs
  | dstep => cases h; exact hs

/-- Settles O25: SETBRIGHT makes the relation, and what a step does to the block keeps it. -/
theorem dutyFollowsLevelForEver : Obligations.DutyFollowsLevelForEver := by
  refine ⟨fun s t level h => ?_, fun s t hs hrst h => ?_⟩
  · cases h
    exact dutyMatchesLevel_setBrightness level s
  · obtain ⟨w, i, u, e, -, -, hu, rfl⟩ | ⟨w, r, e, -, -, rfl⟩ | ⟨e, -, rfl⟩ := step_block hrst h
    · exact exec_keeps_dutyMatchesLevel (t := u) hs hu
    · exact hs
    · obtain ⟨-, -, -, hlevel, hduty, -⟩ := seqStep_frame s
      rw [DutyMatchesLevel, withEnv_duty, withEnv_level, hlevel, hduty]
      exact hs

/-- Settles O27: each of the two commands is one update, of LEVEL and DUTY or of PHASE. -/
theorem brightnessCommandsLeaveThePictureAlone : Obligations.BrightnessCommandsLeaveThePictureAlone := by
  rintro i s t (⟨level, rfl⟩ | rfl) h
  · cases h
    exact ⟨rfl, surfaceOf_congr rfl rfl, by simp⟩
  · cases h
    exact ⟨rfl, surfaceOf_congr rfl rfl, by simp⟩

/-- Settles O31: every mask at every first phase, evaluated. -/
theorem maskIsOnInItsPopcountOfFourFrames : Obligations.MaskIsOnInItsPopcountOfFourFrames := by
  unfold Obligations.MaskIsOnInItsPopcountOfFourFrames
  decide

/-! ### The PWM counter (R142) -/

/-- After n ticks the counter has gone on by n, modulo the period. -/
theorem cntAfter_toNat {period : Nat} (hp : period = 255 ∨ period = 256) (n : Nat) {c : Byte} (hc : c.toNat < period) :
    (cntAfter period n c).toNat = (c.toNat + n) % period := by
  induction n generalizing c with
  | zero => exact (Nat.mod_eq_of_lt hc).symm
  | succ n ih =>
    have hnext := cntNext_toNat hp c
    have hlt : (cntNext period c).toNat < period := by
      rw [hnext]
      exact Nat.mod_lt _ (by omega)
    rw [cntAfter, ih hlt, hnext, Nat.mod_add_mod, Nat.add_assoc, Nat.add_comm 1 n]

theorem pwmTick_iterate_cnt (n : Nat) (s : State) : (pwmTick^[n] s).cnt = cntAfter Config.pwmPeriod n s.cnt := by
  induction n generalizing s with
  | zero => rfl
  | succ n ih => rw [Function.iterate_succ_apply, ih, cntAfter, pwmTick_cnt]

/-- Settles O28: ticks add, EN compares, and a step ticks. -/
theorem pwmGeneratorCountsAndCompares : Obligations.PwmGeneratorCountsAndCompares := by
  refine ⟨fun s => ⟨cntNext_toNat pwmPeriod_cases s.cnt, rfl⟩, fun s => decide_eq_true_iff,
    fun period duty k hp hk => ?_, fun period cnt hp hcnt => ?_, fun s n => pwmTick_iterate_cnt n s,
    fun s t hrst h => ⟨Config.pwmTicks s.draws, ?_, step_cnt hrst h⟩⟩
  · have hcount := cntAfter_toNat hp k (c := 0#8) (by show 0 < period; omega)
    rw [BitVec.toNat_zero, Nat.zero_add, Nat.mod_eq_of_lt hk] at hcount
    rw [enLevel, decide_eq_true_iff, hcount]
    omega
  · apply BitVec.eq_of_toNat_eq
    rw [cntAfter_toNat hp period hcnt, Nat.add_mod_right, Nat.mod_eq_of_lt hcnt]
  · rw [pwmTick_iterate_cnt]
    exact step_cnt hrst h

/-! ### The lit fraction (R144) -/

theorem countP_range_not_lt (d n : Nat) : (List.range n).countP (fun c => !decide (c < d)) = n - min d n := by
  induction n with
  | zero => simp
  | succ n ih =>
    rw [List.range_succ, List.countP_append, ih, List.countP_singleton]
    by_cases h : n < d
    · simp only [h, decide_true, Bool.not_true, Bool.false_eq_true, if_false]
      omega
    · simp only [h, decide_false, Bool.not_false, if_true]
      omega

theorem enabledTicks_eq {period : Nat} (hp : period = 255 ∨ period = 256) (duty : Byte) :
    enabledTicks period duty = period - min duty.toNat period := by
  rw [← countP_range_not_lt, enabledTicks]
  refine List.countP_congr fun c hc => ?_
  have hlt := List.mem_range.1 hc
  rw [enLevel, BitVec.toNat_ofNat, Nat.mod_eq_of_lt (by omega)]

theorem duty_of_level_toNat (level : Byte) : (255#8 - level).toNat = 255 - level.toNat := by
  have := level.isLt
  rw [BitVec.toNat_sub]
  simp
  omega

/-- With a duty of 255 less the level, EN is low in `level` ticks of a period of 255, and in one more of a period of 256. -/
theorem enabledTicks_of_level {period : Nat} (hp : period = 255 ∨ period = 256) (level : Byte) :
    enabledTicks period (255#8 - level) = level.toNat + (period - 255) := by
  have := level.isLt
  rw [enabledTicks_eq hp, duty_of_level_toNat]
  omega

/-- Settles O29: the ticks with EN low are counted, and their number rises with the level. -/
theorem litFractionFormula : Obligations.LitFractionFormula := by
  refine ⟨fun period duty hp => ?_, fun level => ?_, fun level => ?_, fun period l l' hp hl => ?_⟩
  · rw [litFraction, enabledTicks_eq hp]
  · rw [litFraction, enabledTicks_of_level (.inr rfl)]
    push_cast
    rfl
  · rw [litFraction, enabledTicks_of_level (.inl rfl)]
    simp
  · rw [litFraction, litFraction, enabledTicks_of_level hp, enabledTicks_of_level hp]
    have hpos : (0 : ℚ) < period := by exact_mod_cast (by omega : 0 < period)
    gcongr

end Sys2Proof
end

section
/-!
Settles what is left of RENDER and the serializer (spec/41_render_serializer.md). The whole command is computed field by
field, its events are counted and indexed, and the 771 places of the sequencer come to it: a place is three steps for each
bit, and how many steps are left is a number that every step makes one less.
-/

namespace Sys2Proof

open Sys2Proof.Machine

/-! ### The vector of a surface (R110, R125) -/

/-- Settles O34: the walk is `Build`. -/
theorem walkingAllCellsBuildsTheVector : Obligations.WalkingAllCellsBuildsTheVector :=
  buildWalk_eq_buildVector

/-- Settles O35: counted along the map, each cell's position has the cell's bit. -/
theorem vectorHasOneBitPerLitCell : Obligations.VectorHasOneBitPerLitCell := by
  intro hwmap surf
  rw [popcountRow, ← (Equiv.Perm.map_finRange_perm hwmap).countP_eq, List.countP_map]
  refine List.countP_congr fun c _ => ?_
  rw [Function.comp_apply, buildVector_bit_hwmap]

theorem buildVector_zero (hwmap : Equiv.Perm Index) : buildVector hwmap (fun _ => 0#8) = 0#256 :=
  Row.ext_index fun p => by rw [buildVector_bit, BitVec.getLsbD_zero]; rfl

/-! ### RENDER and its whole command (R114, R118 to R120) -/

/-- Settles O32: RENDER is the update of `SEQ`. -/
theorem renderStartsTheSequencer : Obligations.RenderStartsTheSequencer :=
  fun s => ⟨_, exec_render s, rfl, rfl, rfl⟩

/-- Settles O41: which bit each stage holds after j shift steps. -/
theorem shiftStepsFillTheChain : Obligations.ShiftStepsFillTheChain := by
  refine fun s j hclk hj => ⟨fun p hp => ?_, fun k hjk hk => ?_⟩
  · rw [shiftBits_sr_bit hclk hj (by omega), if_pos (by omega)]
    congr 1
    omega
  · rw [shiftBits_sr_bit hclk hj hk, if_neg (by omega)]

theorem renderWhole_pv (s : State) : (renderWhole s).pv = buildVector Config.hwmap (surfaceOf s) := by
  rw [renderWhole_eq]
  simp only [latchPulse_frame, shiftBits_frame _ le_rfl, setPv_pv]

theorem renderWhole_sr (s : State) :
    (renderWhole s).sr = (shiftBits 256 (setPv (buildVector Config.hwmap (surfaceOf s)) s)).sr := by
  rw [renderWhole_eq]
  simp only [latchPulse_frame]

theorem renderWhole_sr_eq_out {s : State} (hlat : s.lat = false) : (renderWhole s).sr = (renderWhole s).out := by
  rw [renderWhole_sr, renderWhole_out hlat]

theorem renderWhole_seq (s : State) : (renderWhole s).seq = .idle := rfl

theorem renderWhole_lat (s : State) : (renderWhole s).lat = false := rfl

theorem renderWhole_clk {s : State} (hclk : s.clk = false) : (renderWhole s).clk = false := by
  rw [renderWhole_eq]
  simp only [latchPulse_frame]
  exact shiftBits_clk (by exact hclk) le_rfl

/-- `DATA` shows the last bit that was shifted. -/
theorem renderWhole_data (s : State) : (renderWhole s).data = (renderWhole s).pv.getLsbD 255 := by
  rw [renderWhole_pv, renderWhole_eq]
  simp only [latchPulse_frame]
  rw [shiftBits_succ _ (by omega : 255 < 256)]
  simp only [shiftBit_frame, shiftBits_frame _ (by omega : 255 ≤ 256), setPv_pv]

/-- After the whole command the latch of a cell's position holds whether the cell's byte is not 0. -/
theorem renderWhole_out_cell {s : State} (hclk : s.clk = false) (hlat : s.lat = false) (x y : Fin 16) :
    (renderWhole s).out.getLsbD (stageOf (mapAt Config.hwmap x y)).val = (cellByte s (16 * y.val + x.val) != 0#8) := by
  have hposition : 255 - (stageOf (mapAt Config.hwmap x y)).val = (Config.hwmap (cellOf x y)).val := by
    show 255 - (255 - (Config.hwmap (cellOf x y)).val) = _
    omega
  rw [renderWhole_out_bit hclk hlat, hposition, buildVector_bit_hwmap]
  rfl

/-- Settles O48: driven is the latch of the cell's position, and EN is the compare. -/
theorem litCellsAreTheNonzeroCells : Obligations.LitCellsAreTheNonzeroCells := by
  intro s x y hclk hlat
  rw [State.cellLit, State.ledLit, State.ledDriven, renderWhole_out_cell hclk hlat, Bool.and_eq_true, bne_iff_ne,
    State.en, enLevel, Bool.not_eq_true', decide_eq_false_iff_not]

/-- Settles O49: the vector of a surface of zeros is 0, and the chain and the latches hold its bits. -/
theorem clearThenRenderIsDark : Obligations.ClearThenRenderIsDark := by
  intro s t hclk hlat h
  cases h
  have hvector : buildVector Config.hwmap (surfaceOf (fillSurface 0#8 s)) = 0#256 := by
    rw [surfaceOf_fillSurface, buildVector_zero]
  have hout : (renderWhole (fillSurface 0#8 s)).out = 0#256 := Row.ext_index fun k => by
    rw [renderWhole_out_bit (by exact hclk) (by exact hlat), hvector, BitVec.getLsbD_zero, BitVec.getLsbD_zero]
  exact ⟨(renderWhole_pv _).trans hvector, (renderWhole_sr_eq_out (by exact hlat)).trans hout, hout⟩

/-! ### The events of a RENDER (R115) -/

theorem shiftEvents_length (pv : Row) (i : Index) : (shiftEvents pv i).length = 3 := rfl

theorem foldl_shiftBit_trace (cells : List Index) (s : State) :
    (cells.foldl shiftBit s).trace = s.trace ++ cells.flatMap (shiftEvents s.pv) := by
  induction cells generalizing s with
  | nil => simp
  | cons i cells ih =>
    have hpv : (shiftBit s i).pv = s.pv := by simp only [shiftBit_frame]
    have htrace : (shiftBit s i).trace = s.trace ++ shiftEvents s.pv i := by simp [shiftBit, pulse, shiftEvents]
    rw [List.foldl_cons, ih, hpv, htrace, List.flatMap_cons, List.append_assoc]

theorem latchPulse_trace (s : State) :
    (setSeq .idle (pulse .lat s)).trace = s.trace ++ [(.lat, true), (.lat, false)] := by
  simp [pulse]

theorem renderWhole_trace (s : State) :
    (renderWhole s).trace = s.trace ++ renderEvents (buildVector Config.hwmap (surfaceOf s)) := by
  have hall : (List.finRange 256).take 256 = List.finRange 256 := List.take_of_length_le (by simp)
  rw [renderWhole_eq, latchPulse_trace, shiftBits, hall, foldl_shiftBit_trace, setPv_trace, setPv_pv, renderEvents,
    List.append_assoc]

theorem countP_flatMap_shiftEvents (pv : Row) (p : Event → Bool) (n : Nat)
    (h : ∀ i, (shiftEvents pv i).countP p = n) (cells : List Index) :
    (cells.flatMap (shiftEvents pv)).countP p = cells.length * n := by
  induction cells with
  | nil => simp
  | cons i cells ih => rw [List.flatMap_cons, List.countP_append, ih, h, List.length_cons]; ring

theorem flatMap_shiftEvents_length (pv : Row) : ((List.finRange 256).flatMap (shiftEvents pv)).length = 768 := by
  have := countP_flatMap_shiftEvents pv (fun _ => true) 3 (fun i => by simp [shiftEvents_length]) (List.finRange 256)
  simpa using this

theorem countP_renderEvents (pv : Row) (p : Event → Bool) (n : Nat) (h : ∀ i, (shiftEvents pv i).countP p = n) :
    (renderEvents pv).countP p = 256 * n + [((.lat, true) : Event), (.lat, false)].countP p := by
  rw [renderEvents, List.countP_append, countP_flatMap_shiftEvents pv p n h, List.length_finRange]

theorem renderEvents_length (pv : Row) : (renderEvents pv).length = 770 := by
  rw [renderEvents, List.length_append, flatMap_shiftEvents_length]; rfl

theorem getElem?_flatMap_shiftEvents (pv : Row) (cells : List Index) (i k : Nat) (hk : k < 3) :
    (cells.flatMap (shiftEvents pv))[3 * i + k]? = cells[i]?.bind fun c => (shiftEvents pv c)[k]? := by
  induction cells generalizing i with
  | nil => simp
  | cons c cells ih =>
    rw [List.flatMap_cons]
    cases i with
    | zero => rw [List.getElem?_append_left (by rw [shiftEvents_length]; omega)]; simp
    | succ i =>
      have hindex : 3 * (i + 1) + k - 3 = 3 * i + k := by omega
      rw [List.getElem?_append_right (by rw [shiftEvents_length]; omega), shiftEvents_length, hindex, ih,
        List.getElem?_cons_succ]

/-- Event 3i + k of a RENDER is event k of its shift step i. -/
theorem getElem?_renderEvents_shift (pv : Row) (i : Index) {k : Nat} (hk : k < 3) :
    (renderEvents pv)[3 * i.val + k]? = (shiftEvents pv i)[k]? := by
  have hlength := flatMap_shiftEvents_length pv
  rw [renderEvents, List.getElem?_append_left (by omega), getElem?_flatMap_shiftEvents _ _ _ _ hk,
    List.getElem?_eq_getElem (by simp)]
  simp

/-- The two events after the 768 of the shift steps are the pulse of `LAT`. -/
theorem getElem?_renderEvents_latch (pv : Row) (k : Nat) :
    (renderEvents pv)[768 + k]? = [((.lat, true) : Event), (.lat, false)][k]? := by
  have hlength := flatMap_shiftEvents_length pv
  rw [renderEvents, List.getElem?_append_right (by omega), hlength, Nat.add_sub_cancel_left]

/-- Settles O42: the trace of the whole command, and its events counted and indexed. -/
theorem renderRecordsItsEvents : Obligations.RenderRecordsItsEvents := by
  intro s
  refine ⟨by rw [renderWhole_trace, renderWhole_pv], fun pv => ⟨renderEvents_length pv, ?_, ?_, ?_⟩,
    fun pv i hi => ⟨?_, ?_, ?_⟩, fun pv => ⟨?_, ?_⟩⟩
  · exact countP_renderEvents pv _ 1 fun _ => rfl
  · exact countP_renderEvents pv _ 2 fun _ => rfl
  · exact countP_renderEvents pv _ 0 fun _ => rfl
  · exact getElem?_renderEvents_shift pv ⟨i, hi⟩ (k := 0) (by omega)
  · exact getElem?_renderEvents_shift pv ⟨i, hi⟩ (k := 1) (by omega)
  · exact getElem?_renderEvents_shift pv ⟨i, hi⟩ (k := 2) (by omega)
  · exact getElem?_renderEvents_latch pv 0
  · exact getElem?_renderEvents_latch pv 1

/-- Settles O47: the vector, the chain and the events of the whole command are functions of the surface. -/
theorem secondRenderShowsTheSamePicture : Obligations.SecondRenderShowsTheSamePicture := by
  intro s u hclk hlat hclk' hlat' hsame
  have hout := renderWhole_out_congr hclk hlat hclk' hlat' hsame
  refine ⟨by rw [renderWhole_pv, renderWhole_pv, hsame], ?_, hout, _, renderEvents_length _, renderWhole_trace s, ?_⟩
  · rw [renderWhole_sr_eq_out hlat, renderWhole_sr_eq_out hlat', hout]
  · rw [renderWhole_trace, hsame]

theorem sum_hold_flatMap_shiftEvents (t : PulseWidths) (pv : Row) (cells : List Index) :
    ((cells.flatMap (shiftEvents pv)).map t.hold).sum = cells.length * (t.tSetup + t.tClkHigh + t.tClkLow) := by
  induction cells with
  | nil => simp
  | cons i cells ih =>
    rw [List.flatMap_cons, List.map_append, List.sum_append, ih, List.length_cons]
    simp only [shiftEvents, List.map_cons, List.map_nil, List.sum_cons, List.sum_nil, PulseWidths.hold]
    push_cast
    ring

/-- Settles O50: the three holds of each shift step, and that of the latch. -/
theorem renderMinimumDuration : Obligations.RenderMinimumDuration := by
  intro t pv
  rw [minDuration, renderEvents, List.map_append, List.sum_append, sum_hold_flatMap_shiftEvents, List.length_finRange]
  simp [PulseWidths.hold]

/-! ### The order of the sequencer (R26) -/

/-- How many steps the sequencer has still to make from a place until it is idle. -/
def stepsLeft : Seq → Nat
  | .idle => 0
  | .build => 771
  | .shift i .dataSet => 3 * (255 - i.val) + 5
  | .shift i .clkHigh => 3 * (255 - i.val) + 4
  | .shift i .clkLow => 3 * (255 - i.val) + 3
  | .latch .latHigh => 2
  | .latch .latLow => 1

theorem stepsLeft_eq_zero_iff (q : Seq) : stepsLeft q = 0 ↔ q = .idle := by
  rcases q with _ | _ | ⟨i, _ | _ | _⟩ | ⟨_ | _⟩ <;> simp [stepsLeft]

theorem stepsLeft_after (q : Seq) : stepsLeft q.after = stepsLeft q - 1 := by
  rcases q with _ | _ | ⟨i, _ | _ | _⟩ | ⟨_ | _⟩
  case shift.clkLow =>
    by_cases hi : i.val < 255
    · rw [seqAfter_clkLow_next (j := ⟨i.val + 1, by omega⟩) rfl]
      simp only [stepsLeft]
      omega
    · rw [seqAfter_clkLow_last (by omega)]
      simp only [stepsLeft]
      omega
  all_goals rfl

theorem stepsLeft_after_iterate (k : Nat) (q : Seq) : stepsLeft (Seq.after^[k] q) = stepsLeft q - k := by
  induction k with
  | zero => rfl
  | succ k ih => rw [Function.iterate_succ_apply', stepsLeft_after, ih, Nat.sub_sub]

theorem after_iterate_build_eq_idle_iff (k : Nat) : Seq.after^[k] .build = .idle ↔ renderSteps ≤ k := by
  rw [← stepsLeft_eq_zero_iff, stepsLeft_after_iterate]
  exact Nat.sub_eq_zero_iff_le

/-- Settles O36: a command other than RENDER and a reserved word leave the sequencer idle; at BUILD 771 steps are left. -/
theorem sequencerOrderIsFixed : Obligations.SequencerOrderIsFixed := by
  refine ⟨fun s t hrst h => ?_, fun k hk hidle => ?_, (after_iterate_build_eq_idle_iff renderSteps).2 le_rfl⟩
  · obtain ⟨w, i, u, e, ha, hd, hu, rfl⟩ | ⟨w, r, e, ha, hd, rfl⟩ | ⟨e, -, rfl⟩ := step_block hrst h
    · have hidle := seq_idle_of_accepts ha
      obtain hseq | ⟨rfl, rfl⟩ := exec_seq hu
      · exact .inl (by rw [withEnv_seq, hseq, hidle]; rfl)
      · exact .inr ⟨hidle, rfl, w, ha, hd⟩
    · exact .inl (by rw [withEnv_seq, seq_idle_of_accepts ha]; rfl)
    · exact .inl (seqStep_seq s)
  · exact absurd ((after_iterate_build_eq_idle_iff k).1 hidle) (by omega)

/-! ### The steps of the sequencer come to the whole command (R110 to R113) -/

/-- The place at which shift step j begins, or after the last of them the latch. -/
def shiftPlace (j : Nat) : Seq := if h : j < 256 then .shift ⟨j, h⟩ .dataSet else .latch .latHigh

theorem shiftPlace_of_lt {j : Nat} (h : j < 256) : shiftPlace j = .shift ⟨j, h⟩ .dataSet := dif_pos h

theorem shiftPlace_succ {j : Nat} (h : j < 256) : shiftPlace (j + 1) = Seq.after (.shift ⟨j, h⟩ .clkLow) := by
  by_cases hj : j + 1 < 256
  · rw [shiftPlace_of_lt hj, seqAfter_clkLow_next (j := ⟨j + 1, hj⟩) rfl]
  · rw [seqAfter_clkLow_last (show j = 255 by omega)]
    exact dif_neg hj

theorem drive_setSeq (p : Pin) (b : Bool) (q : Seq) (s : State) : drive p b (setSeq q s) = setSeq q (drive p b s) := by
  cases p <;> rfl

theorem seqStep_at_build (s : State) :
    seqStep (setSeq .build s) = setSeq (.shift 0 .dataSet) (setPv (buildVector Config.hwmap (surfaceOf s)) s) := by
  rw [seqStep_build rfl, surfaceOf_congr (s := setSeq .build s) (t := s) rfl rfl]
  generalize buildVector Config.hwmap (surfaceOf s) = v
  rfl

theorem seqStep_at_dataSet (i : Index) (s : State) :
    seqStep (setSeq (.shift i .dataSet) s) = setSeq (.shift i .clkHigh) (drive .data (s.pv.getLsbD i.val) s) := by
  rw [seqStep_dataSet rfl, drive_setSeq]; rfl

theorem seqStep_at_clkHigh (i : Index) (s : State) :
    seqStep (setSeq (.shift i .clkHigh) s) = setSeq (.shift i .clkLow) (drive .clk true s) := by
  rw [seqStep_clkHigh rfl, drive_setSeq]; rfl

theorem seqStep_at_clkLow (i : Index) (s : State) :
    seqStep (setSeq (.shift i .clkLow) s) = setSeq (Seq.after (.shift i .clkLow)) (drive .clk false s) := by
  rw [seqStep_clkLow rfl, drive_setSeq]; rfl

theorem seqStep_at_latHigh (s : State) :
    seqStep (setSeq (.latch .latHigh) s) = setSeq (.latch .latLow) (drive .lat true s) := by
  rw [seqStep_latHigh rfl, drive_setSeq]; rfl

theorem seqStep_at_latLow (s : State) :
    seqStep (setSeq (.latch .latLow) s) = setSeq .idle (drive .lat false s) := by
  rw [seqStep_latLow rfl, drive_setSeq]; rfl

/-- Three steps of the sequencer are one shift step. -/
theorem seqStep_iterate_shiftBit (s : State) {j : Nat} (h : j < 256) :
    seqStep^[3] (setSeq (shiftPlace j) s) = setSeq (shiftPlace (j + 1)) (shiftBit s ⟨j, h⟩) := by
  calc seqStep^[3] (setSeq (shiftPlace j) s)
      = seqStep (seqStep (seqStep (setSeq (.shift ⟨j, h⟩ .dataSet) s))) := by rw [shiftPlace_of_lt h]; rfl
    _ = setSeq (shiftPlace (j + 1)) (shiftBit s ⟨j, h⟩) := by
      rw [seqStep_at_dataSet, seqStep_at_clkHigh, seqStep_at_clkLow, shiftPlace_succ h]; rfl

theorem seqStep_iterate_shiftBits (s : State) {j : Nat} (h : j ≤ 256) :
    seqStep^[3 * j] (setSeq (shiftPlace 0) s) = setSeq (shiftPlace j) (shiftBits j s) := by
  induction j with
  | zero => rfl
  | succ j ih =>
    rw [Nat.mul_succ, Nat.add_comm, Function.iterate_add_apply, ih (by omega), seqStep_iterate_shiftBit _ h,
      shiftBits_succ s h]

/-- The two steps of the latch are its pulse. -/
theorem seqStep_iterate_latchPulse (s : State) :
    seqStep^[2] (setSeq (.latch .latHigh) s) = setSeq .idle (pulse .lat s) := by
  show seqStep (seqStep (setSeq (.latch .latHigh) s)) = _
  rw [seqStep_at_latHigh, seqStep_at_latLow]; rfl

theorem seqStep_iterate_renderSteps (s : State) : seqStep^[renderSteps] (setSeq .build s) = renderWhole s := by
  have hsteps : renderSteps = 2 + (3 * 256 + 1) := rfl
  have hfirst : Seq.shift 0 .dataSet = shiftPlace 0 := rfl
  have hlatch : shiftPlace 256 = .latch .latHigh := rfl
  rw [hsteps, Function.iterate_add_apply, Function.iterate_add_apply, Function.iterate_one, seqStep_at_build, hfirst,
    seqStep_iterate_shiftBits _ le_rfl, hlatch, seqStep_iterate_latchPulse, renderWhole_eq]

/-- Settles O43: one build step, three steps for each bit, two for the latch; and the sequencer is idle only after them. -/
theorem sequencerStepsRefineRender : Obligations.SequencerStepsRefineRender := by
  refine fun s => ⟨seqStep_iterate_renderSteps s, fun k hk => ?_⟩
  rw [State.busy, seqStep_iterate_seq, setSeq_seq, bne_iff_ne, Ne, after_iterate_build_eq_idle_iff]
  omega

/-! ### Brightness and RENDER (R151) -/

theorem drive_setBrightness (p : Pin) (b : Bool) (l d : Byte) (s : State) :
    drive p b (setBrightness l d s) = setBrightness l d (drive p b s) := by
  cases p <;> rfl

theorem seqStep_setBrightness (l d : Byte) (s : State) :
    seqStep (setBrightness l d s) = setBrightness l d (seqStep s) :=
  seqStep_comm (setBrightness l d) (fun _ => rfl) (fun _ => rfl) (fun _ => surfaceOf_congr rfl rfl) (fun _ _ => rfl)
    (fun _ _ => rfl) (fun p b s => drive_setBrightness p b l d s) s

/-- Settles O30: no step of the sequencer sees LEVEL or DUTY, and the whole command is 771 of them. -/
theorem brightnessOnlyDims : Obligations.BrightnessOnlyDims := by
  refine fun s l d => ⟨?_, seqStep_setBrightness l d s, fun p => rfl⟩
  have hsteps := Function.Semiconj.iterate_right (fun s => (seqStep_setBrightness l d s).symm) renderSteps
  rw [← seqStep_iterate_renderSteps, ← seqStep_iterate_renderSteps]
  exact (hsteps (setSeq .build s)).symm

end Sys2Proof
end

section
/-!
Settles the invariant of the machine (spec/10_state.md R40; spec/41_render_serializer.md R115, R118, R120). A step of the
sequencer keeps each part of it by a lemma of its own; between two frames, in IDLE and BUILD, most parts say nothing, and
there a reset and the commands are.
-/

namespace Sys2Proof

open Sys2Proof.Machine

/-! ### Between two frames -/

/-- In IDLE and in BUILD the invariant says that the pins are low and that the trace holds whole frames. -/
theorem inv_between_frames {t : State} (hseq : t.seq = .idle ∨ t.seq = .build) (hsurface : t.surface.wf)
    (hcnt : t.cnt.toNat < Config.pwmPeriod) (hclk : t.clk = false) (hlat : t.lat = false)
    (hlength : t.trace.length % 770 = 0)
    (hsettled : t.seq = .idle → t.trace ≠ [] → t.out = t.sr ∧ Shifted 256 t.pv t.sr ∧ t.data = t.pv.getLsbD 255) :
    Inv t := by
  have hplace : t.seq.clkLevel = false ∧ t.seq.latLevel = false ∧ t.seq.dataBit? = none ∧ t.seq.frameBuilt = false ∧
      t.seq.bitsShifted = 0 ∧ t.seq ≠ .latch .latLow ∧ t.seq.eventsDone = 0 := by
    rcases hseq with h | h <;> rw [h] <;> decide
  obtain ⟨hclkLevel, hlatLevel, hbit, hbuilt, hbits, hnot, hevents⟩ := hplace
  exact {
    surfaceForm := hsurface
    cntBound := hcnt
    clkPin := hclk.trans hclkLevel.symm
    latPin := hlat.trans hlatLevel.symm
    dataPin := fun i hi => nomatch hbit.symm.trans hi
    snapshot := fun h => nomatch hbuilt.symm.trans h
    chain := fun p hp => absurd hp (by omega)
    latched := fun h => absurd h hnot
    traceLength := hlength.trans hevents.symm
    traceTail := by rw [hevents]; exact List.nil_suffix
    settled := hsettled }

theorem inv_takeReset (s : State) : Inv (takeReset s) :=
  inv_between_frames (.inl rfl) (Memory.reset_wf (s.resets + 1)) (resetCnt_lt _) rfl rfl rfl fun _ h => absurd rfl h

/-- Settles O14: the reset state is idle, with an empty trace. -/
theorem invariantHoldsAtReset : Obligations.InvariantHoldsAtReset :=
  inv_between_frames (.inl rfl) (Memory.reset_wf 0) (resetCnt_lt 0) rfl rfl rfl fun _ h => absurd rfl h

/-- The invariant does not see what runs beside the block, but for the range of `CNT`. -/
theorem inv_withEnv {s e : State} (h : Inv s) (he : e.cnt.toNat < Config.pwmPeriod) : Inv (withEnv e s) where
  surfaceForm := h.surfaceForm
  cntBound := he
  clkPin := h.clkPin
  latPin := h.latPin
  dataPin := h.dataPin
  snapshot := fun hb => (h.snapshot hb).trans (by rw [surfaceOf_withEnv])
  chain := h.chain
  latched := h.latched
  traceLength := h.traceLength
  traceTail := h.traceTail
  settled := h.settled

/-! ### Commands keep the invariant -/

theorem exec_keeps_surface_wf {i : Instr} {s t : State} (hs : s.surface.wf) (h : exec i s = .next t) :
    t.surface.wf := by
  cases i with
  | setpixel x y on =>
    obtain ⟨c, hc, rfl⟩ | ⟨-, rfl⟩ := exec_setpixel_next h
    · exact Memory.set_wf hs (pixelCell?_lt hc) _
    · exact hs
  | clear => cases h; exact Memory.fill_wf 0#8
  | render => cases h; exact hs
  | setbright level => cases h; exact hs
  | setrot r => cases h; exact hs
  | dstep => cases h; exact hs

theorem exec_keeps_inv {i : Instr} {s t : State} (hs : Inv s) (hidle : s.seq = .idle) (h : exec i s = .next t) :
    Inv t := by
  obtain ⟨hpv, hdata, hclk, hlat, hcnt, hsr, hout, htrace, -⟩ := exec_frame h
  have hseq : t.seq = .idle ∨ t.seq = .build := by
    obtain hsame | ⟨-, rfl⟩ := exec_seq h
    · exact .inl (hsame.trans hidle)
    · exact .inr rfl
  have hclkPin := hs.clkPin
  have hlatPin := hs.latPin
  have hlength := hs.traceLength
  rw [hidle] at hclkPin hlatPin hlength
  refine inv_between_frames hseq (exec_keeps_surface_wf hs.surfaceForm h) ?_ ?_ ?_ ?_ ?_
  · rw [hcnt]; exact hs.cntBound
  · rw [hclk]; exact hclkPin
  · rw [hlat]; exact hlatPin
  · rw [htrace]; exact hlength
  · rw [hout, hsr, hpv, hdata, htrace]
    exact fun _ => hs.settled hidle

/-! ### The sequencer keeps each part of the invariant -/

/-- The two places that may follow CLK_LOW. -/
theorem after_clkLow_cases (i : Index) :
    (∃ j : Index, j.val = i.val + 1 ∧ Seq.after (.shift i .clkLow) = .shift j .dataSet) ∨
    (i.val = 255 ∧ Seq.after (.shift i .clkLow) = .latch .latHigh) := by
  by_cases h : i.val < 255
  · exact .inl ⟨⟨i.val + 1, by omega⟩, rfl, seqAfter_clkLow_next rfl⟩
  · exact .inr ⟨by omega, seqAfter_clkLow_last (by omega)⟩

theorem seqStep_pv_of_ne_build {s : State} (h : s.seq ≠ .build) : (seqStep s).pv = s.pv := by
  rcases hq : s.seq with _ | _ | ⟨i, _ | _ | _⟩ | ⟨_ | _⟩
  · rw [seqStep_idle hq]
  · exact absurd hq h
  · rw [seqStep_dataSet hq]; rfl
  · rw [seqStep_clkHigh hq]; rfl
  · rw [seqStep_clkLow hq]; rfl
  · rw [seqStep_latHigh hq]; rfl
  · rw [seqStep_latLow hq]; rfl

theorem surfaceOf_seqStep (s : State) : surfaceOf (seqStep s) = surfaceOf s := by
  obtain ⟨hsurface, hresets, -⟩ := seqStep_frame s
  exact surfaceOf_congr hsurface hresets

theorem seqStep_keeps_clkPin {s : State} (hs : Inv s) : (seqStep s).clk = (seqStep s).seq.clkLevel := by
  have hpin := hs.clkPin
  rcases hq : s.seq with _ | _ | ⟨i, _ | _ | _⟩ | ⟨_ | _⟩
  · rw [seqStep_idle hq]; exact hpin
  · rw [hq] at hpin
    rw [seqStep_build hq]; exact hpin
  · rw [hq] at hpin
    rw [seqStep_dataSet hq]; exact hpin
  · rw [seqStep_clkHigh hq]; rfl
  · rw [seqStep_clkLow hq, setSeq_seq]
    obtain ⟨j, -, hj⟩ | ⟨-, hj⟩ := after_clkLow_cases i <;> rw [hj] <;> rfl
  · rw [hq] at hpin
    rw [seqStep_latHigh hq]; exact hpin
  · rw [hq] at hpin
    rw [seqStep_latLow hq]; exact hpin

theorem seqStep_keeps_latPin {s : State} (hs : Inv s) : (seqStep s).lat = (seqStep s).seq.latLevel := by
  have hpin := hs.latPin
  rcases hq : s.seq with _ | _ | ⟨i, _ | _ | _⟩ | ⟨_ | _⟩
  · rw [seqStep_idle hq]; exact hpin
  · rw [hq] at hpin
    rw [seqStep_build hq]; exact hpin
  · rw [hq] at hpin
    rw [seqStep_dataSet hq]; exact hpin
  · rw [hq] at hpin
    rw [seqStep_clkHigh hq]; exact hpin
  · rw [hq] at hpin
    rw [seqStep_clkLow hq, setSeq_seq]
    obtain ⟨j, -, hj⟩ | ⟨-, hj⟩ := after_clkLow_cases i <;> rw [hj] <;> exact hpin
  · rw [seqStep_latHigh hq]; rfl
  · rw [seqStep_latLow hq]; rfl

/-- `DATA` is driven at DATA_SET and shows that bit until the next. -/
theorem seqStep_keeps_dataPin {s : State} (hs : Inv s) :
    ∀ k, (seqStep s).seq.dataBit? = some k → (seqStep s).data = (seqStep s).pv.getLsbD k := by
  have hpin := hs.dataPin
  intro k hk
  rcases hq : s.seq with _ | _ | ⟨i, _ | _ | _⟩ | ⟨_ | _⟩
  · rw [seqStep_idle hq] at hk ⊢
    exact hpin k hk
  · rw [seqStep_build hq] at hk
    cases hk
  · rw [seqStep_dataSet hq] at hk ⊢
    cases hk; rfl
  · rw [hq] at hpin
    rw [seqStep_clkHigh hq] at hk ⊢
    rw [setSeq_data, drive_clk_data, setSeq_pv, drive_clk_pv]
    exact hpin k hk
  · rw [hq] at hpin
    have hki : k = i.val := by
      rw [seqStep_seq, hq] at hk
      obtain ⟨j, hval, hj⟩ | ⟨hval, hj⟩ := after_clkLow_cases i <;> rw [hj] at hk <;> simp [Seq.dataBit?] at hk <;> omega
    rw [seqStep_clkLow hq, hki, setSeq_data, drive_clk_data, setSeq_pv, drive_clk_pv]
    exact hpin i.val rfl
  · rw [hq] at hpin
    rw [seqStep_latHigh hq] at hk ⊢
    rw [setSeq_data, drive_lat_data, setSeq_pv, drive_lat_pv]
    exact hpin k hk
  · rw [seqStep_latLow hq] at hk
    cases hk

theorem frameBuilt_of_after {q : Seq} (h : q.after.frameBuilt = true) : q = .build ∨ q.frameBuilt = true := by
  rcases q with _ | _ | _ | _
  · cases h
  · exact .inl rfl
  · exact .inr rfl
  · exact .inr rfl

/-- `PV` is built at BUILD from a surface that the sequencer does not touch. -/
theorem seqStep_keeps_snapshot {s : State} (hs : Inv s) (h : (seqStep s).seq.frameBuilt = true) :
    (seqStep s).pv = buildVector Config.hwmap (surfaceOf (seqStep s)) := by
  rw [surfaceOf_seqStep]
  obtain hq | hq := frameBuilt_of_after (q := s.seq) h
  · rw [seqStep_build hq, setSeq_pv, setPv_pv]
  · rw [seqStep_pv_of_ne_build (by rintro hb; rw [hb] at hq; cases hq)]
    exact hs.snapshot hq

/-- One more bit shifted in. -/
theorem shifted_shiftIn {j : Nat} {pv sr : Row} (hj : j < 256) (h : Shifted j pv sr) :
    Shifted (j + 1) pv (shiftIn sr (pv.getLsbD j)) := by
  intro p hp
  rw [shiftIn_bit _ _ (by omega)]
  by_cases hpj : p = j
  · subst hpj
    rw [if_pos (by omega)]
  · have hstage : j + 1 - 1 - p - 1 = j - 1 - p := by omega
    rw [if_neg (by omega), hstage]
    exact h p (by omega)

/-- The chain takes the bit on `DATA` at CLK_HIGH, where it finds `CLK` low, and nowhere else. -/
theorem seqStep_keeps_chain {s : State} (hs : Inv s) :
    Shifted (seqStep s).seq.bitsShifted (seqStep s).pv (seqStep s).sr := by
  have hchain := hs.chain
  rcases hq : s.seq with _ | _ | ⟨i, _ | _ | _⟩ | ⟨_ | _⟩
  · rw [seqStep_idle hq]; exact hchain
  · rw [seqStep_build hq]
    exact fun p hp => absurd hp (Nat.not_lt_zero p)
  · rw [hq] at hchain
    rw [seqStep_dataSet hq, setSeq_pv, drive_data_pv, setSeq_sr, drive_data_sr]
    exact hchain
  · have hclk := hs.clkPin
    have hdata := hs.dataPin i.val
    rw [hq] at hchain hclk hdata
    rw [seqStep_clkHigh hq, setSeq_pv, drive_clk_pv, setSeq_sr, drive_clk_rising hclk, hdata rfl]
    exact shifted_shiftIn i.isLt hchain
  · rw [hq] at hchain
    have hbits : (Seq.after (.shift i .clkLow)).bitsShifted = i.val + 1 := by
      obtain ⟨j, hval, hj⟩ | ⟨hval, hj⟩ := after_clkLow_cases i <;> rw [hj] <;> simp [Seq.bitsShifted, hval]
    rw [seqStep_clkLow hq, setSeq_seq, hbits, setSeq_pv, drive_clk_pv, setSeq_sr, drive_clk_sr]
    exact hchain
  · rw [hq] at hchain
    rw [seqStep_latHigh hq, setSeq_pv, drive_lat_pv, setSeq_sr, drive_lat_sr]
    exact hchain
  · rw [seqStep_latLow hq]
    exact fun p hp => absurd hp (Nat.not_lt_zero p)

theorem eq_latHigh_of_after {q : Seq} (h : q.after = .latch .latLow) : q = .latch .latHigh := by
  rcases q with _ | _ | ⟨i, _ | _ | _⟩ | ⟨_ | _⟩
  case shift.clkLow => obtain ⟨j, -, hj⟩ | ⟨-, hj⟩ := after_clkLow_cases i <;> cases hj.symm.trans h
  case latch.latHigh => rfl
  all_goals cases h

/-- The latches take the stages at LAT_HIGH, where it finds `LAT` low. -/
theorem seqStep_keeps_latched {s : State} (hs : Inv s) (h : (seqStep s).seq = .latch .latLow) :
    (seqStep s).out = (seqStep s).sr := by
  have hq := eq_latHigh_of_after (q := s.seq) h
  have hlat := hs.latPin
  rw [hq] at hlat
  rw [seqStep_latHigh hq]
  exact drive_lat_rising hlat

/-- The event that the sequencer makes at a place past BUILD is the next of its frame. -/
theorem seqStep_trace_of_frameBuilt {s : State} (h : s.seq.frameBuilt = true) :
    ∃ e, (seqStep s).trace = s.trace ++ [e] ∧ (renderEvents s.pv)[s.seq.eventsDone]? = some e := by
  rcases hq : s.seq with _ | _ | ⟨i, _ | _ | _⟩ | ⟨_ | _⟩
  · rw [hq] at h; cases h
  · rw [hq] at h; cases h
  · exact ⟨_, by rw [seqStep_dataSet hq]; rfl, getElem?_renderEvents_shift _ i (k := 0) (by omega)⟩
  · exact ⟨_, by rw [seqStep_clkHigh hq]; rfl, getElem?_renderEvents_shift _ i (k := 1) (by omega)⟩
  · exact ⟨_, by rw [seqStep_clkLow hq]; rfl, getElem?_renderEvents_shift _ i (k := 2) (by omega)⟩
  · exact ⟨_, by rw [seqStep_latHigh hq]; rfl, getElem?_renderEvents_latch _ 0⟩
  · exact ⟨_, by rw [seqStep_latLow hq]; rfl, getElem?_renderEvents_latch _ 1⟩

/-- The numbers of events go up by one from place to place, and round at the end of the frame. -/
theorem eventsDone_after {q : Seq} (h : q.frameBuilt = true) : q.after.eventsDone = (q.eventsDone + 1) % 770 := by
  rcases q with _ | _ | ⟨i, _ | _ | _⟩ | ⟨_ | _⟩
  · cases h
  · cases h
  · simp only [Seq.after, Seq.eventsDone]; omega
  · simp only [Seq.after, Seq.eventsDone]; omega
  · obtain ⟨j, hval, hj⟩ | ⟨hval, hj⟩ := after_clkLow_cases i <;> rw [hj] <;> simp only [Seq.eventsDone] <;> omega
  · rfl
  · rfl

theorem seqStep_keeps_traceLength {s : State} (hs : Inv s) :
    (seqStep s).trace.length % 770 = (seqStep s).seq.eventsDone := by
  have hlength := hs.traceLength
  by_cases hbuilt : s.seq.frameBuilt = true
  · obtain ⟨e, htrace, -⟩ := seqStep_trace_of_frameBuilt hbuilt
    rw [seqStep_seq, eventsDone_after hbuilt, htrace, List.length_append, List.length_singleton, ← hlength,
      Nat.mod_add_mod]
  · rcases hq : s.seq with _ | _ | _ | _
    · rw [seqStep_idle hq]; exact hlength
    · rw [hq] at hlength
      rw [seqStep_build hq]; exact hlength
    · rw [hq] at hbuilt; exact absurd rfl hbuilt
    · rw [hq] at hbuilt; exact absurd rfl hbuilt

theorem seqStep_keeps_traceTail {s : State} (hs : Inv s) :
    (renderEvents (seqStep s).pv).take (seqStep s).seq.eventsDone <:+ (seqStep s).trace := by
  by_cases hbuilt : s.seq.frameBuilt = true
  · obtain ⟨e, htrace, hevent⟩ := seqStep_trace_of_frameBuilt hbuilt
    have hpv : (seqStep s).pv = s.pv := seqStep_pv_of_ne_build (by rintro hb; rw [hb] at hbuilt; cases hbuilt)
    rw [seqStep_seq, eventsDone_after hbuilt, htrace, hpv]
    by_cases hlast : s.seq.eventsDone + 1 = 770
    · rw [hlast]; exact List.nil_suffix
    · have hlt : s.seq.eventsDone < 770 := hs.traceLength ▸ Nat.mod_lt _ (by omega)
      rw [Nat.mod_eq_of_lt (by omega), List.take_add_one, hevent]
      obtain ⟨earlier, hearlier⟩ := hs.traceTail
      exact ⟨earlier, by rw [← hearlier, List.append_assoc]; rfl⟩
  · rcases hq : s.seq with _ | _ | _ | _
    · rw [seqStep_idle hq]; exact hs.traceTail
    · rw [seqStep_build hq]; exact List.nil_suffix
    · rw [hq] at hbuilt; exact absurd rfl hbuilt
    · rw [hq] at hbuilt; exact absurd rfl hbuilt

theorem idle_or_latLow_of_after {q : Seq} (h : q.after = .idle) : q = .idle ∨ q = .latch .latLow := by
  rcases q with _ | _ | ⟨i, _ | _ | _⟩ | ⟨_ | _⟩
  case idle => exact .inl rfl
  case shift.clkLow => obtain ⟨j, -, hj⟩ | ⟨-, hj⟩ := after_clkLow_cases i <;> cases hj.symm.trans h
  case latch.latLow => exact .inr rfl
  all_goals cases h

/-- The frame is settled at the end of its RENDER by what the invariant says at LAT_LOW. -/
theorem seqStep_keeps_settled {s : State} (hs : Inv s) (h : (seqStep s).seq = .idle) (hne : (seqStep s).trace ≠ []) :
    (seqStep s).out = (seqStep s).sr ∧ Shifted 256 (seqStep s).pv (seqStep s).sr ∧
      (seqStep s).data = (seqStep s).pv.getLsbD 255 := by
  obtain hq | hq := idle_or_latLow_of_after (q := s.seq) h
  · rw [seqStep_idle hq] at hne ⊢
    exact hs.settled hq hne
  · have hchain := hs.chain
    have hdata := hs.dataPin 255
    rw [hq] at hchain hdata
    rw [seqStep_latLow hq, setSeq_out, drive_lat_out, setSeq_sr, drive_lat_sr, setSeq_pv, drive_lat_pv, setSeq_data,
      drive_lat_data]
    exact ⟨hs.latched hq, hchain, hdata rfl⟩

theorem seqStep_keeps_inv {s : State} (hs : Inv s) : Inv (seqStep s) := by
  obtain ⟨hsurface, -, -, -, -, -, hcnt, -⟩ := seqStep_frame s
  exact {
    surfaceForm := hsurface ▸ hs.surfaceForm
    cntBound := hcnt ▸ hs.cntBound
    clkPin := seqStep_keeps_clkPin hs
    latPin := seqStep_keeps_latPin hs
    dataPin := seqStep_keeps_dataPin hs
    snapshot := seqStep_keeps_snapshot hs
    chain := seqStep_keeps_chain hs
    latched := seqStep_keeps_latched hs
    traceLength := seqStep_keeps_traceLength hs
    traceTail := seqStep_keeps_traceTail hs
    settled := seqStep_keeps_settled hs }

/-! ### Every step keeps the invariant -/

theorem cntAfter_lt (n : Nat) {c : Byte} (hc : c.toNat < Config.pwmPeriod) :
    (cntAfter Config.pwmPeriod n c).toNat < Config.pwmPeriod := by
  rw [cntAfter_toNat pwmPeriod_cases n hc]
  exact Nat.mod_lt _ (by omega)

/-- Settles O15: a reset begins anew, and else a command or a step of the sequencer keeps it, with `CNT` in its range. -/
theorem stepKeepsTheInvariant : Obligations.StepKeepsTheInvariant := by
  intro s t hs h
  cases hrst : s.rstPin with
  | true =>
    cases (step_reset hrst).symm.trans h
    exact inv_takeReset _
  | false =>
    have hcnt : t.cnt.toNat < Config.pwmPeriod := step_cnt hrst h ▸ cntAfter_lt _ hs.cntBound
    obtain ⟨w, i, u, e, ha, -, hu, rfl⟩ | ⟨w, r, e, -, -, rfl⟩ | ⟨e, -, rfl⟩ := step_block hrst h
    · exact inv_withEnv (exec_keeps_inv hs (seq_idle_of_accepts ha) hu) hcnt
    · exact inv_withEnv hs hcnt
    · exact inv_withEnv (seqStep_keeps_inv hs) hcnt

end Sys2Proof
end

section
/-!
Settles the rules of the whole machine (spec/10_state.md R32, R35; spec/41_render_serializer.md R126; spec/42 R142 and
spec/70 R193): which step writes which element, and that `CNT` reaches no other. Each is a fact about a command and a fact
about a place of the sequencer.
-/

namespace Sys2Proof

open Sys2Proof.Machine

/-! ### What a place of the sequencer writes (R111 to R113, R126) -/

theorem seqStep_sr_cases (s : State) : (seqStep s).sr = s.sr ∨ ∃ i, s.seq = .shift i .clkHigh := by
  rcases hq : s.seq with _ | _ | ⟨i, _ | _ | _⟩ | ⟨_ | _⟩
  case shift.clkHigh => exact .inr ⟨i, rfl⟩
  all_goals left
  · rw [seqStep_idle hq]
  · rw [seqStep_build hq]; rfl
  · rw [seqStep_dataSet hq]; rfl
  · rw [seqStep_clkLow hq]; rfl
  · rw [seqStep_latHigh hq]; rfl
  · rw [seqStep_latLow hq]; rfl

theorem seqStep_out_of_ne_latHigh {s : State} (h : s.seq ≠ .latch .latHigh) : (seqStep s).out = s.out := by
  rcases hq : s.seq with _ | _ | ⟨i, _ | _ | _⟩ | ⟨_ | _⟩
  · rw [seqStep_idle hq]
  · rw [seqStep_build hq]; rfl
  · rw [seqStep_dataSet hq]; rfl
  · rw [seqStep_clkHigh hq]; rfl
  · rw [seqStep_clkLow hq]; rfl
  · exact absurd hq h
  · rw [seqStep_latLow hq]; rfl

theorem seqStep_out_cases (s : State) :
    (seqStep s).out = s.out ∨ (s.seq = .latch .latHigh ∧ (seqStep s).out = s.sr) := by
  by_cases hq : s.seq = .latch .latHigh
  · rw [seqStep_latHigh hq, setSeq_out, drive_lat_out]
    cases s.lat
    · exact .inr ⟨hq, rfl⟩
    · exact .inl rfl
  · exact .inl (seqStep_out_of_ne_latHigh hq)

/-- A place of the sequencer records nothing, or the one event of the pin it drives. -/
theorem seqStep_trace_cases (s : State) :
    (seqStep s).trace = s.trace ∨ (seqStep s).trace = s.trace ++ [(Pin.data, (seqStep s).data)] ∨
      (seqStep s).trace = s.trace ++ [(Pin.clk, (seqStep s).clk)] ∨
      (seqStep s).trace = s.trace ++ [(Pin.lat, (seqStep s).lat)] := by
  rcases hq : s.seq with _ | _ | ⟨i, _ | _ | _⟩ | ⟨_ | _⟩
  · exact .inl (by rw [seqStep_idle hq])
  · exact .inl (by rw [seqStep_build hq]; rfl)
  · exact .inr (.inl (by rw [seqStep_dataSet hq]; rfl))
  · exact .inr (.inr (.inl (by rw [seqStep_clkHigh hq]; rfl)))
  · exact .inr (.inr (.inl (by rw [seqStep_clkLow hq]; rfl)))
  · exact .inr (.inr (.inr (by rw [seqStep_latHigh hq]; rfl)))
  · exact .inr (.inr (.inr (by rw [seqStep_latLow hq]; rfl)))

/-- Settles O40: no command touches the chain, and of the places of the sequencer one writes SR and one OUT. -/
theorem chainMovesOnlyInItsOwnSteps : Obligations.ChainMovesOnlyInItsOwnSteps := by
  intro s t hrst h
  obtain ⟨w, i, u, e, -, -, hu, rfl⟩ | ⟨w, r, e, -, -, rfl⟩ | ⟨e, -, rfl⟩ := step_block hrst h
  · obtain ⟨-, -, -, -, -, hsr, hout, -⟩ := exec_frame hu
    exact ⟨fun hne => absurd hsr hne, fun hne => absurd hout hne⟩
  · exact ⟨fun hne => absurd rfl hne, fun hne => absurd rfl hne⟩
  · exact ⟨(seqStep_sr_cases s).resolve_left, (seqStep_out_cases s).resolve_left⟩

/-- Settles O52: a command records nothing, and a place of the sequencer at most one event. -/
theorem traceOnlyGrows : Obligations.TraceOnlyGrows := by
  intro s t hrst h
  obtain ⟨w, i, u, e, -, -, hu, rfl⟩ | ⟨w, r, e, -, -, rfl⟩ | ⟨e, -, rfl⟩ := step_block hrst h
  · obtain ⟨-, -, -, -, -, -, -, htrace, -⟩ := exec_frame hu
    exact .inl htrace
  · exact .inl rfl
  · exact seqStep_trace_cases s

/-! ### What a command writes (R35) -/

theorem exec_surface_writer {i : Instr} {s t : State} (h : exec i s = .next t) (hne : t.surface ≠ s.surface) :
    i = .clear ∨ ∃ x y on, i = .setpixel x y on := by
  cases i with
  | setpixel x y on => exact .inr ⟨x, y, on, rfl⟩
  | clear => exact .inl rfl
  | render => cases h; exact absurd rfl hne
  | setbright level => cases h; exact absurd rfl hne
  | setrot r => cases h; exact absurd rfl hne
  | dstep => cases h; exact absurd rfl hne

theorem exec_rot_writer {i : Instr} {s t : State} (h : exec i s = .next t) (hne : t.rot ≠ s.rot) :
    ∃ r, i = .setrot r := by
  cases i with
  | setpixel x y on => obtain ⟨c, -, rfl⟩ | ⟨-, rfl⟩ := exec_setpixel_next h <;> exact absurd rfl hne
  | setrot r => exact ⟨r, rfl⟩
  | clear => cases h; exact absurd rfl hne
  | render => cases h; exact absurd rfl hne
  | setbright level => cases h; exact absurd rfl hne
  | dstep => cases h; exact absurd rfl hne

theorem exec_brightness_writer {i : Instr} {s t : State} (h : exec i s = .next t)
    (hne : t.level ≠ s.level ∨ t.duty ≠ s.duty) : ∃ level, i = .setbright level := by
  cases i with
  | setpixel x y on => obtain ⟨c, -, rfl⟩ | ⟨-, rfl⟩ := exec_setpixel_next h <;> simp at hne
  | setbright level => exact ⟨level, rfl⟩
  | clear => cases h; simp at hne
  | render => cases h; simp at hne
  | setrot r => cases h; simp at hne
  | dstep => cases h; simp at hne

theorem exec_phase_writer {i : Instr} {s t : State} (h : exec i s = .next t) (hne : t.phase ≠ s.phase) : i = .dstep := by
  cases i with
  | setpixel x y on => obtain ⟨c, -, rfl⟩ | ⟨-, rfl⟩ := exec_setpixel_next h <;> exact absurd rfl hne
  | dstep => rfl
  | clear => cases h; exact absurd rfl hne
  | render => cases h; exact absurd rfl hne
  | setbright level => cases h; exact absurd rfl hne
  | setrot r => cases h; exact absurd rfl hne

/-- Settles O51: the writers among the commands, and of the sequencer BUILD and the places past it. -/
theorem onlyItsCommandWritesARegister : Obligations.OnlyItsCommandWritesARegister := by
  intro s t hrst h
  obtain ⟨w, i, u, e, ha, hd, hu, rfl⟩ | ⟨w, r, e, -, -, rfl⟩ | ⟨e, -, rfl⟩ := step_block hrst h
  · obtain ⟨hpv, hdata, hclk, hlat, -, -, -, htrace, -⟩ := exec_frame hu
    refine ⟨fun hne => ⟨w, ha, ?_⟩, fun hne => ?_, fun hne => ?_, fun hne => ⟨w, ha, ?_⟩, fun hne => absurd hpv hne,
      fun hne => ?_⟩
    · obtain rfl | ⟨x, y, on, rfl⟩ := exec_surface_writer hu hne
      · exact .inl hd
      · exact .inr ⟨x, y, on, hd⟩
    · obtain ⟨r, rfl⟩ := exec_rot_writer hu hne
      exact ⟨w, r, ha, hd⟩
    · obtain ⟨level, rfl⟩ := exec_brightness_writer hu hne
      exact ⟨w, level, ha, hd⟩
    · obtain rfl := exec_phase_writer hu hne
      exact hd
    · simp [hdata, hclk, hlat, htrace] at hne
  · simp
  · obtain ⟨hsurface, -, hrot, hlevel, hduty, hphase, -⟩ := seqStep_frame s
    refine ⟨fun hne => absurd hsurface hne, fun hne => absurd hrot hne, fun hne => ?_, fun hne => absurd hphase hne,
      fun hne => ?_, fun hne => ?_⟩
    · simp [hlevel, hduty] at hne
    · by_contra hbuild
      exact hne (seqStep_pv_of_ne_build hbuild)
    · by_contra hidle
      rw [Bool.not_eq_true, busy_eq_false_iff] at hidle
      rw [seqStep_idle hidle] at hne
      simp at hne

/-! ### `CNT` reaches nothing (R142, R193) -/

/-- Two surfaces that read alike still do after one byte is stored in the same cell. -/
theorem surfaceOf_setCell_congr {s s' : State} (h : surfaceOf s = surfaceOf s') (c : Nat) (v : Byte) :
    surfaceOf (setCell c v s) = surfaceOf (setCell c v s') := by
  funext d
  have hd := congrFun h d
  simp only [surfaceOf] at hd ⊢
  rw [cellByte_setCell, cellByte_setCell, hd]

theorem exec_sameButCnt {i : Instr} {s s' t t' : State} (hs : SameButCnt s s') (h : exec i s = .next t)
    (h' : exec i s' = .next t') : SameButCnt t t' := by
  obtain ⟨hsurface, hrot, hlevel, hduty, hphase, hrest⟩ := hs
  cases i with
  | setpixel x y on =>
    cases hc : pixelCell? s.rot x y with
    | some c =>
      cases (exec_setpixel_of_some hc on).symm.trans h
      cases (exec_setpixel_of_some (hrot ▸ hc) on).symm.trans h'
      exact ⟨by rw [hlevel, surfaceOf_setCell_congr hsurface], hrot, hlevel, hduty, hphase, hrest⟩
    | none =>
      cases (exec_setpixel_of_none hc on).symm.trans h
      cases (exec_setpixel_of_none (hrot ▸ hc) on).symm.trans h'
      exact ⟨hsurface, hrot, hlevel, hduty, hphase, hrest⟩
  | clear =>
    cases h; cases h'
    exact ⟨by rw [surfaceOf_fillSurface, surfaceOf_fillSurface], hrot, hlevel, hduty, hphase, hrest⟩
  | render =>
    cases h; cases h'
    obtain ⟨hpv, -, hpins⟩ := hrest
    exact ⟨hsurface, hrot, hlevel, hduty, hphase, hpv, rfl, hpins⟩
  | setbright level => cases h; cases h'; exact ⟨hsurface, hrot, rfl, rfl, hphase, hrest⟩
  | setrot r => cases h; cases h'; exact ⟨hsurface, rfl, hlevel, hduty, hphase, hrest⟩
  | dstep => cases h; cases h'; exact ⟨hsurface, hrot, hlevel, hduty, by simp [hphase], hrest⟩

theorem surfaceOf_drive (p : Pin) (b : Bool) (s : State) : surfaceOf (drive p b s) = surfaceOf s := by
  cases p <;> exact surfaceOf_congr rfl rfl

theorem drive_sameButCnt {s s' : State} (hs : SameButCnt s s') (p : Pin) (b : Bool) :
    SameButCnt (drive p b s) (drive p b s') := by
  obtain ⟨hsurface, hrot, hlevel, hduty, hphase, hpv, hseq, hdata, hclk, hlat, hsr, hout⟩ := hs
  have hsurfaces : surfaceOf (drive p b s) = surfaceOf (drive p b s') := by
    rw [surfaceOf_drive, surfaceOf_drive, hsurface]
  cases p with
  | data => exact ⟨hsurfaces, hrot, hlevel, hduty, hphase, hpv, hseq, rfl, hclk, hlat, hsr, hout⟩
  | clk =>
    exact ⟨hsurfaces, hrot, hlevel, hduty, hphase, hpv, hseq, hdata, rfl, hlat, by simp [hclk, hsr, hdata], hout⟩
  | lat => exact ⟨hsurfaces, hrot, hlevel, hduty, hphase, hpv, hseq, hdata, hclk, rfl, hsr, by simp [hlat, hsr, hout]⟩

theorem setSeq_sameButCnt {s s' : State} (hs : SameButCnt s s') (q : Seq) : SameButCnt (setSeq q s) (setSeq q s') := by
  obtain ⟨hsurface, hrot, hlevel, hduty, hphase, hpv, -, hpins⟩ := hs
  exact ⟨hsurface, hrot, hlevel, hduty, hphase, hpv, rfl, hpins⟩

theorem setPv_sameButCnt {s s' : State} (hs : SameButCnt s s') (v : Row) : SameButCnt (setPv v s) (setPv v s') := by
  obtain ⟨hsurface, hrot, hlevel, hduty, hphase, -, hrest⟩ := hs
  exact ⟨hsurface, hrot, hlevel, hduty, hphase, rfl, hrest⟩

/-- A place of the sequencer writes the same and records the same in two states that agree but for `CNT`. -/
theorem seqStep_sameButCnt {s s' : State} (hs : SameButCnt s s') :
    SameButCnt (seqStep s) (seqStep s') ∧
      ∃ events, (seqStep s).trace = s.trace ++ events ∧ (seqStep s').trace = s'.trace ++ events := by
  have ⟨hsurface, _, _, _, _, hpv, hseq, _⟩ := hs
  rcases hq : s.seq with _ | _ | ⟨i, _ | _ | _⟩ | ⟨_ | _⟩ <;> rw [hq] at hseq
  · rw [seqStep_idle hq, seqStep_idle hseq.symm]
    exact ⟨hs, [], by simp⟩
  · rw [seqStep_build hq, seqStep_build hseq.symm, hsurface]
    exact ⟨setSeq_sameButCnt (setPv_sameButCnt hs _) _, [], by simp⟩
  · rw [seqStep_dataSet hq, seqStep_dataSet hseq.symm, hpv]
    exact ⟨setSeq_sameButCnt (drive_sameButCnt hs _ _) _, _, rfl, rfl⟩
  · rw [seqStep_clkHigh hq, seqStep_clkHigh hseq.symm]
    exact ⟨setSeq_sameButCnt (drive_sameButCnt hs _ _) _, _, rfl, rfl⟩
  · rw [seqStep_clkLow hq, seqStep_clkLow hseq.symm]
    exact ⟨setSeq_sameButCnt (drive_sameButCnt hs _ _) _, _, rfl, rfl⟩
  · rw [seqStep_latHigh hq, seqStep_latHigh hseq.symm]
    exact ⟨setSeq_sameButCnt (drive_sameButCnt hs _ _) _, _, rfl, rfl⟩
  · rw [seqStep_latLow hq, seqStep_latLow hseq.symm]
    exact ⟨setSeq_sameButCnt (drive_sameButCnt hs _ _) _, _, rfl, rfl⟩

theorem withEnv_sameButCnt {s s' : State} (hs : SameButCnt s s') (e e' : State) :
    SameButCnt (withEnv e s) (withEnv e' s') := by
  obtain ⟨hsurface, hrest⟩ := hs
  exact ⟨by rw [surfaceOf_withEnv, surfaceOf_withEnv, hsurface], hrest⟩

/-- What two states read at their ports alike, and `cmd_ready` with it. -/
theorem ports_congr {s s' : State} (hseq : s.seq = s'.seq) (hcommands : s.commands = s'.commands)
    (hinputs : s.rstInputs = s'.rstInputs) :
    s.busy = s'.busy ∧ s.cmdReady = s'.cmdReady ∧ s.cmdWord? = s'.cmdWord? ∧ s.cmdValid = s'.cmdValid ∧
      s.rstPin = s'.rstPin := by
  simp [State.busy, State.cmdReady, State.cmdWord?, State.cmdValid, State.rstPin, State.rstInput, hseq, hcommands, hinputs]

/-- Settles O53: both steps do the same thing to the block, which sees nothing of `CNT`. -/
theorem counterNeverLeaks : Obligations.CounterNeverLeaks := by
  intro s s' t t' hs hcommands hinputs hrst h h'
  have ⟨_, _, _, _, _, _, hseq, _⟩ := hs
  obtain ⟨hbusy, hready, hword, hvalid, hpin⟩ := ports_congr hseq hcommands hinputs
  have hrst' : s'.rstPin = false := hpin.symm.trans hrst
  have hlists : t.commands = t'.commands ∧ t.rstInputs = t'.rstInputs := by
    rw [step_commands hrst h, step_commands hrst' h', step_rstInputs h, step_rstInputs h', hbusy, hvalid, hcommands,
      hinputs]
    exact ⟨rfl, rfl⟩
  suffices hblock : SameButCnt t t' ∧ ∃ events, t.trace = s.trace ++ events ∧ t'.trace = s'.trace ++ events from
    ⟨hblock.1, hblock.2, hlists⟩
  obtain ⟨w, i, u, e, ha, hd, hu, rfl⟩ | ⟨w, r, e, ha, hd, rfl⟩ | ⟨e, hw, rfl⟩ := step_block hrst h
  · have ha' : Accepts s' w := ⟨hrst', hready ▸ ha.2.1, hword ▸ ha.2.2⟩
    obtain ⟨u', hu'⟩ := exec_continues i s'
    obtain ⟨e', he'⟩ := step_command ha' hd hu'
    cases he'.symm.trans h'
    obtain ⟨-, -, -, -, -, -, -, htrace, -⟩ := exec_frame hu
    obtain ⟨-, -, -, -, -, -, -, htrace', -⟩ := exec_frame hu'
    exact ⟨withEnv_sameButCnt (exec_sameButCnt hs hu hu') e e', [], by simp [htrace], by simp [htrace']⟩
  · have ha' : Accepts s' w := ⟨hrst', hready ▸ ha.2.1, hword ▸ ha.2.2⟩
    obtain ⟨e', he'⟩ := step_reserved ha' hd
    cases he'.symm.trans h'
    exact ⟨withEnv_sameButCnt hs e e', [], by simp, by simp⟩
  · obtain ⟨e', he'⟩ := step_sequencer hrst' (hready ▸ hword ▸ hw)
    cases he'.symm.trans h'
    obtain ⟨hsame, hevents⟩ := seqStep_sameButCnt hs
    exact ⟨withEnv_sameButCnt hsame e e', hevents⟩

end Sys2Proof
end

section
/-!
Settles the statements about runs (spec/41_render_serializer.md R60, R120, R122; spec/70_reset_and_hazards.md R192, R193). A
run of a busy block is the sequencer's steps on the block, whatever the host and the PWM generator do beside it, and from an
accepted RENDER those come to the whole command.
-/

namespace Sys2Proof

open Sys2Proof.Machine

/-! ### Runs without reset -/

theorem rstPin_of_noReset {n : Nat} {s : State} (h : NoReset (n + 1) s) : s.rstPin = false :=
  h 0 (Nat.succ_pos n)

/-- What is said of the host's resets in n + 1 steps holds for n steps after one of them. -/
theorem noReset_of_step {n : Nat} {s t : State} (h : NoReset (n + 1) s) (hstep : step s = .next t) : NoReset n t := by
  intro k hk
  rw [step_rstInputs hstep]
  exact h (k + 1) (by omega)

/-- A run of a block that stays busy is as many steps of the sequencer. -/
theorem runSteps_of_busy (n : Nat) {s : State} (hrst : NoReset n s) (hbusy : ∀ k, k < n → (seqStep^[k] s).busy = true) :
    ∃ e, runSteps n s = .next (withEnv e (seqStep^[n] s)) := by
  induction n generalizing s with
  | zero => exact ⟨s, rfl⟩
  | succ n ih =>
    obtain ⟨e, he⟩ := step_sequencer (rstPin_of_noReset hrst)
      (.inl ((cmdReady_eq_false_iff s).2 (hbusy 0 (Nat.succ_pos n))))
    obtain ⟨e', hrun⟩ := ih (noReset_of_step hrst he) fun k hk => by
      rw [seqStep_iterate_withEnv]
      exact hbusy (k + 1) (by omega)
    exact ⟨e', by rw [runSteps_succ n he, hrun, seqStep_iterate_withEnv, withEnv_withEnv]; rfl⟩

/-- From the step that accepts a RENDER until the sequencer is idle again, the run is the sequencer's. -/
theorem runSteps_of_render {s : State} {w : Word} {n : Nat} (ha : Accepts s w) (hd : decode w = .ok .render)
    (hrst : NoReset (n + 1) s) (hn : n ≤ renderSteps) :
    ∃ e, runSteps (n + 1) s = .next (withEnv e (seqStep^[n] (setSeq .build s))) := by
  obtain ⟨e, he⟩ := step_command ha hd (exec_render s)
  obtain ⟨-, hbusy⟩ := sequencerStepsRefineRender (withEnv e s)
  obtain ⟨e', hrun⟩ := runSteps_of_busy n (noReset_of_step hrst he) fun k hk => hbusy k (by omega)
  exact ⟨e', by rw [runSteps_succ n he, hrun, seqStep_iterate_withEnv, withEnv_withEnv]⟩

theorem pins_low_of_idle {s : State} (hs : Inv s) (hidle : s.seq = .idle) : s.clk = false ∧ s.lat = false := by
  have hclk := hs.clkPin
  have hlat := hs.latPin
  rw [hidle] at hclk hlat
  exact ⟨hclk, hlat⟩

/-- Settles O44: the run is the whole command, whose result is known field by field. -/
theorem renderPutsTheSurfaceOnTheLeds : Obligations.RenderPutsTheSurfaceOnTheLeds := by
  intro s w hs ha hd hrst
  obtain ⟨hclk, hlat⟩ := pins_low_of_idle hs (seq_idle_of_accepts ha)
  obtain ⟨e, hrun⟩ := runSteps_of_render ha hd hrst le_rfl
  rw [seqStep_iterate_renderSteps] at hrun
  obtain ⟨hsurface, -, hrot, hlevel, hduty, hphase, -⟩ := renderWhole_frame s
  refine ⟨_, hrun, ?_⟩
  rw [withEnv_out, withEnv_sr, withEnv_pv, withEnv_data, withEnv_clk, withEnv_lat, withEnv_seq, withEnv_surface,
    surfaceOf_withEnv, withEnv_rot, withEnv_level, withEnv_duty, withEnv_phase, withEnv_trace]
  exact ⟨renderWhole_out_cell hclk hlat, renderWhole_sr_eq_out hlat, renderWhole_pv s, renderWhole_data s,
    renderWhole_clk hclk, renderWhole_lat s, renderWhole_seq s, hsurface, surfaceOf_renderWhole s, hrot, hlevel, hduty,
    hphase, by rw [renderWhole_trace, renderWhole_pv]⟩

/-! ### The instant at which the frame changes (R60, R122) -/

/-- Only 769 places after BUILD is the sequencer at LAT_HIGH. -/
theorem after_iterate_build_ne_latHigh {k : Nat} (h : k ≠ 769) : Seq.after^[k] .build ≠ .latch .latHigh := by
  intro hplace
  have hleft : 2 = 771 - k := by
    rw [← show stepsLeft (.latch .latHigh) = 2 from rfl, ← hplace, stepsLeft_after_iterate]; rfl
  omega

theorem seqStep_iterate_out_succ {s : State} {k : Nat} (h : k ≠ 769) :
    (seqStep^[k + 1] (setSeq .build s)).out = (seqStep^[k] (setSeq .build s)).out := by
  rw [Function.iterate_succ_apply', seqStep_out_of_ne_latHigh]
  rw [seqStep_iterate_seq]
  exact after_iterate_build_ne_latHigh h

theorem seqStep_iterate_out_before (s : State) {k : Nat} (h : k ≤ 769) :
    (seqStep^[k] (setSeq .build s)).out = s.out := by
  induction k with
  | zero => rfl
  | succ k ih => rw [seqStep_iterate_out_succ (by omega), ih (by omega)]

theorem seqStep_iterate_out_after (s : State) {k : Nat} (h : 770 ≤ k) (hend : k ≤ renderSteps) :
    (seqStep^[k] (setSeq .build s)).out = (renderWhole s).out := by
  have hk : k = 770 ∨ k = renderSteps := by
    have : renderSteps = 771 := rfl
    omega
  rw [← seqStep_iterate_renderSteps]
  obtain rfl | rfl := hk
  · exact (seqStep_iterate_out_succ (k := 770) (by omega)).symm
  · rfl

/-- Settles O45: of the run's steps only the one at LAT_HIGH writes OUT. -/
theorem frameChangesAtOneInstant : Obligations.FrameChangesAtOneInstant := by
  intro s t w n hs ha hd hrst hn hrun
  have hsteps : renderSteps = 771 := rfl
  cases n with
  | zero => cases hrun; rfl
  | succ k =>
    obtain ⟨e, he⟩ := runSteps_of_render ha hd hrst (by omega)
    cases he.symm.trans hrun
    rw [withEnv_out]
    by_cases hk : k ≤ 769
    · rw [if_pos (by omega), seqStep_iterate_out_before s hk]
    · rw [if_neg (by omega), seqStep_iterate_out_after s (by omega) (by omega)]

/-! ### The boot sequence (R192, R193) -/

/-- An idle block performs the command whose word the host presents first, and the host goes on with the rest. -/
theorem step_of_listed {s u : State} {i : Instr} {rest : List (Option Word)} {n : Nat} (hidle : s.seq = .idle)
    (hlisted : s.commands.listed = some (encode i) :: rest) (hfits : i.wellFormed = true) (hrst : NoReset (n + 1) s)
    (hu : exec i s = .next u) :
    ∃ e, step s = .next (withEnv e u) ∧ e.commands.listed = rest ∧ NoReset n (withEnv e u) := by
  have hword : s.cmdWord? = some (encode i) := by rw [State.cmdWord?, HostList.head?, hlisted]; rfl
  have hpin := rstPin_of_noReset hrst
  obtain ⟨e, he⟩ := step_command ⟨hpin, (cmdReady_iff s).2 hidle, hword⟩ (decode_encode hfits) hu
  refine ⟨e, he, ?_, noReset_of_step hrst he⟩
  have hcommands : e.commands = s.commands.next := by
    have := step_commands hpin he
    rwa [(busy_eq_false_iff s).2 hidle] at this
  rw [hcommands, HostList.next, hlisted]

/-- What the boot sequence leaves of an idle state: the brightness set, the surface zero, and one RENDER of it. -/
def booted (level : Int) (s : State) : State :=
  renderWhole (fillSurface 0#8 (setBrightness (levelByte level) (dutyByte level) s))

theorem runSteps_boot {s : State} {level : Int} {rest : List (Option Word)} (hfits : levelFits level = true)
    (hidle : s.seq = .idle)
    (hlisted : s.commands.listed =
      [some (encode (.setbright level)), some (encode .clear), some (encode .render)] ++ rest)
    (hrst : NoReset (renderSteps + 3) s) :
    ∃ e, runSteps (renderSteps + 3) s = .next (withEnv e (booted level s)) := by
  obtain ⟨e₁, h₁, hlisted₁, hrst₁⟩ := step_of_listed hidle hlisted hfits hrst (exec_setbright level s)
  obtain ⟨e₂, h₂, hlisted₂, hrst₂⟩ := step_of_listed (s := withEnv e₁ (setBrightness (levelByte level) (dutyByte level) s))
    hidle hlisted₁ rfl hrst₁ (exec_clear _)
  have hword : (withEnv e₂ (fillSurface 0#8 (withEnv e₁ (setBrightness (levelByte level) (dutyByte level) s)))).cmdWord? =
      some (encode .render) := by
    rw [State.cmdWord?, HostList.head?, withEnv_commands, hlisted₂]; rfl
  obtain ⟨e₃, h₃⟩ := runSteps_of_render ⟨rstPin_of_noReset hrst₂, (cmdReady_iff _).2 hidle, hword⟩
    (decode_encode (i := .render) rfl) hrst₂ le_rfl
  refine ⟨e₃, ?_⟩
  rw [runSteps_succ _ h₁, runSteps_succ _ h₂, h₃]
  have hbeside : setSeq .build (withEnv e₂ (fillSurface 0#8
      (withEnv e₁ (setBrightness (levelByte level) (dutyByte level) s)))) =
      withEnv e₂ (setSeq .build (fillSurface 0#8 (setBrightness (levelByte level) (dutyByte level) s))) := rfl
  rw [hbeside, seqStep_iterate_withEnv, withEnv_withEnv, seqStep_iterate_renderSteps, booted]

/-- A RENDER makes two states agree on every element but `CNT` and the past, when what it leaves alone agrees. -/
theorem renderWhole_sameButCnt {s s' : State} (hclk : s.clk = false) (hlat : s.lat = false) (hclk' : s'.clk = false)
    (hlat' : s'.lat = false) (hsurface : surfaceOf s = surfaceOf s') (hrot : s.rot = s'.rot)
    (hlevel : s.level = s'.level) (hduty : s.duty = s'.duty) (hphase : s.phase = s'.phase) :
    SameButCnt (renderWhole s) (renderWhole s') := by
  obtain ⟨-, -, hr, hl, hd, hp, -⟩ := renderWhole_frame s
  obtain ⟨-, -, hr', hl', hd', hp', -⟩ := renderWhole_frame s'
  have hpv : (renderWhole s).pv = (renderWhole s').pv := by rw [renderWhole_pv, renderWhole_pv, hsurface]
  have hout := renderWhole_out_congr hclk' hlat' hclk hlat hsurface
  refine ⟨?_, ?_, ?_, ?_, ?_, hpv, ?_, ?_, ?_, ?_, ?_, hout⟩
  · rw [surfaceOf_renderWhole, surfaceOf_renderWhole, hsurface]
  · rw [hr, hr', hrot]
  · rw [hl, hl', hlevel]
  · rw [hd, hd', hduty]
  · rw [hp, hp', hphase]
  · rw [renderWhole_seq, renderWhole_seq]
  · rw [renderWhole_data, renderWhole_data, hpv]
  · rw [renderWhole_clk hclk, renderWhole_clk hclk']
  · rw [renderWhole_lat, renderWhole_lat]
  · rw [renderWhole_sr_eq_out hlat, renderWhole_sr_eq_out hlat', hout]

theorem booted_trace (level : Int) (s : State) : (booted level s).trace = s.trace ++ renderEvents 0#256 := by
  rw [booted, renderWhole_trace, surfaceOf_fillSurface, buildVector_zero]; rfl

theorem booted_out (level : Int) {s : State} (hclk : s.clk = false) (hlat : s.lat = false) :
    (booted level s).out = 0#256 := by
  obtain ⟨-, -, hdark⟩ := clearThenRenderIsDark (setBrightness (levelByte level) (dutyByte level) s) _ hclk hlat
    (exec_clear _)
  exact hdark

theorem booted_brightness {level : Int} (h : 0 ≤ level ∧ level ≤ 255) (s : State) :
    ((booted level s).level.toNat : Int) = level ∧ ((booted level s).duty.toNat : Int) = 255 - level := by
  obtain ⟨-, -, -, hlevel, hduty, -⟩ :=
    renderWhole_frame (fillSurface 0#8 (setBrightness (levelByte level) (dutyByte level) s))
  have hclamp : clamp level 0 255 = level := by
    unfold clamp
    split_ifs <;> omega
  have hl := levelByte_toNat level
  have hd := dutyByte_toNat level
  rw [hclamp] at hl hd
  exact ⟨by rw [booted, hlevel]; exact hl, by rw [booted, hduty]; exact hd⟩

/-- Settles O54: both runs come to the same three commands, which leave nothing of the past but `ROT`, `PHASE` and `CNT`. -/
theorem bootDefinesEveryElement : Obligations.BootDefinesEveryElement := by
  intro s s' level rest rest' hlow hhigh hs hs' hidle hidle' hrot hphase hlisted hlisted' hrst hrst'
  have hfits : levelFits level = true := (levelFits_iff level).2 ⟨by omega, by omega⟩
  obtain ⟨e, hrun⟩ := runSteps_boot hfits hidle hlisted hrst
  obtain ⟨e', hrun'⟩ := runSteps_boot hfits hidle' hlisted' hrst'
  obtain ⟨hclk, hlat⟩ := pins_low_of_idle hs hidle
  obtain ⟨hclk', hlat'⟩ := pins_low_of_idle hs' hidle'
  have hsame : SameButCnt (booted level s) (booted level s') :=
    renderWhole_sameButCnt hclk hlat hclk' hlat' (by rw [surfaceOf_fillSurface, surfaceOf_fillSurface]) hrot rfl rfl
      hphase
  obtain ⟨hlevel, hduty⟩ := booted_brightness (level := level) ⟨by omega, hhigh⟩ s
  refine ⟨_, _, hrun, hrun', withEnv_sameButCnt hsame e e', ?_⟩
  rw [withEnv_trace, withEnv_trace, withEnv_seq, withEnv_level, withEnv_duty, withEnv_out]
  exact ⟨⟨_, renderEvents_length _, booted_trace level s, booted_trace level s'⟩, renderWhole_seq _, hlevel, hduty,
    booted_out level hclk hlat⟩

end Sys2Proof
end
